-- ==== Sys2Proof/Word.lean ====
section
/-! DEFINITION. The words and numbers of the Groveway GW6120 hub: bytes, 32-bit aperture words, and the numbers that name
its ports, map slots, access slots, transactions and pages. -/

namespace Sys2Proof

/-- A byte of access data, a tag, a command code or a renewal number. -/
abbrev Byte := BitVec 8

/-- An aperture word: 32 bits, bit 0 the least significant (chapter 11). -/
abbrev Word := BitVec 32

/-- A master port, P0 to P5 (R102). -/
abbrev PortId := Fin 6

/-- A map slot, S0 to S15 (R1). -/
abbrev SlotId := Fin 16

/-- One of a port's eight access slots (R22, R23). -/
abbrev AccId := Fin 8

/-- A transaction number, 0 to 15 (R46). -/
abbrev TxnId := Fin 16

/-- A logical page, 0 to 255 (R1). -/
abbrev Page := Fin 256

/-- A physical frame number, 0 to 4095 (R2). -/
abbrev Frame := BitVec 12

end Sys2Proof
end

