-- ==== Sys2Proof/Config.lean ====
section
/-! DEFINITION. The fixed sizes and the reset values of the part. The manual leaves no value open in this model (every choice it
leaves open is an operand of a command, see notes/assumptions/1.md, 2.md and 16.md), so no opaque constant stands here. -/

namespace Sys2Proof.Config

/-- The limit of a port's outstanding command records (R170, R171). -/
def commandLimit : Nat := 4

/-- The places of the load queue (R60). -/
def loadPlaces : Nat := 8

/-- The number of transactions that may be outstanding at memory at once (R46, R49). -/
def transactionLimit : Nat := 16

/-- The places of the fault queue, hence the positions READ_FAULT may name (R138, R146). -/
def faultPlaces : Nat := 12

/-- Bytes of a page and of a frame (R1, R2). -/
def pageBytes : Nat := 4096

/-- The largest MEMSIZE, and its value after device reset (R178, R179). -/
def maxMemsize : Nat := 4096

/-- The least and the greatest lease period (R119). -/
def minPeriod : Nat := 64

/-- The greatest lease period (R119). -/
def maxPeriod : Nat := 65535

/-- The lease period after device reset (R119, R136). -/
def resetPeriod : Nat := 1024

/-- The least stall limit other than 0 (R151, R178). -/
def minStallLimit : Nat := 16

/-- The greatest stall limit (R151, R178). -/
def maxStallLimit : Nat := 65535

end Sys2Proof.Config
end

