-- ==== Sys2Proof/Syntax.lean ====
section
/-! DEFINITION. The commands of the hub: one constructor of `Instr` for each row of spec/opcode_table.json, and the data the
outside world hands over with them (an access request, a memory answer, the order in which a tick is taken). -/

namespace Sys2Proof

/-- The kind of an access or of a memory transaction (R21, R46). -/
inductive AccessKind where
  | read
  | write
deriving DecidableEq, Repr

/-- An access request as the master port takes it (R21). `beats` is 1 to 16 and `data` is `4 * beats` bytes for a WRITE and
empty for a READ (`Access.wellFormed`). -/
structure Access where
  tag : Byte
  kind : AccessKind
  addr : BitVec 20
  beats : Nat
  data : List Byte
deriving DecidableEq, Repr

/-- The outcome memory gives a transaction (R52). -/
inductive MemOutcome where
  | success
  | error
deriving DecidableEq, Repr

/-- An answer of memory: the number and generation the transaction was sent with, the outcome, and the read data of a READ
answered SUCCESS (R52). -/
structure MemAnswer where
  number : TxnId
  generation : BitVec 8
  outcome : MemOutcome
  data : List Byte
deriving DecidableEq, Repr

/-- One of the effects of a tick: on the tick stamp count (R141), on the lease of a port (R121) or on the stall timer of a
port (R151). The manual has each of them act on its own piece of state. -/
inductive TickPart where
  | stamp
  | lease (p : PortId)
  | timer (p : PortId)
deriving DecidableEq, Repr

/-- The commands of the hub, one for each row of spec/opcode_table.json. The rows PUT_ENTRY to ACCEPT and UNKNOWN_COMMAND are
the taking of the record at the head of port `p`'s command queue (R172): tag and arguments stand in that record (R188). -/
inductive Instr where
  /-- ACCESS_REQUEST: the master on port `p` presents an access; `pick` is the free access slot it goes into, if free. -/
  | accessRequest (p : PortId) (a : Access) (pick : AccId)
  /-- TRANSLATE_HEAD_ACCESS of port `p`. -/
  | translateHeadAccess (p : PortId)
  /-- DELIVER_RESPONSE of port `p`. -/
  | deliverResponse (p : PortId)
  /-- GRANT: the arbiter looks for a requester; `able` says whether memory is accepting a transaction. -/
  | grant (able : Bool)
  /-- MEMORY_ANSWER_ACCESS: memory answers a transaction of a master port. Of the ports whose head accesses a swap releases,
  those in `first` are taken first, in that order, and the others in port order. -/
  | memoryAnswerAccess (a : MemAnswer) (first : List PortId := [])
  /-- MEMORY_ANSWER_DESCRIPTOR: memory answers a read of the load engine; `first` as in MEMORY_ANSWER_ACCESS, for an answer
  that turns out to be a port's. -/
  | memoryAnswerDescriptor (a : MemAnswer) (first : List PortId := [])
  /-- TICK: one pulse of the tick line, whose parts in `first` are taken first, in that order. -/
  | tick (first : List TickPart)
  /-- LEASE_EXPIRY: the tick is taken at port `p`'s lease and takes its remaining ticks to 0. -/
  | leaseExpiry (p : PortId)
  /-- STALL_TIMER_EXPIRY: the tick is taken at port `p`'s stall timer and takes it to 0. -/
  | stallTimerExpiry (p : PortId)
  /-- RENEWAL: a write of `value` to the renewal word of port `p`. -/
  | renewal (p : PortId) (value : Word)
  /-- POST: a write of any value to the post word of port `p`. -/
  | post (p : PortId) (value : Word)
  /-- POP: a write of any value to the pop word of port `p`. -/
  | pop (p : PortId) (value : Word)
  /-- FLAG_WORD_WRITE: a write to the flag word of port `p`. -/
  | flagWordWrite (p : PortId) (value : Word)
  /-- ENABLE_WORD_WRITE: a write to the enable word of port `p`. -/
  | enableWordWrite (p : PortId) (value : Word)
  /-- APERTURE_STATUS_WRITE: a write to the aperture status word of port `p`. -/
  | apertureStatusWrite (p : PortId) (value : Word)
  /-- APERTURE_WRITE: an aperture write transfer on port `p` at a transfer address; `whole` is false for a write narrower
  than a word. -/
  | apertureWrite (p : PortId) (addr : Nat) (whole : Bool) (value : Word)
  /-- UNKNOWN_COMMAND taken from port `p`. -/
  | unknownCommand (p : PortId)
  /-- PUT_ENTRY taken from port `p`. -/
  | putEntry (p : PortId)
  /-- DISCARD taken from port `p`. -/
  | discard (p : PortId)
  /-- CLEAR taken from port `p`. -/
  | clear (p : PortId)
  /-- LOAD taken from port `p`. -/
  | load (p : PortId)
  /-- ABORT_LOAD taken from port `p`. -/
  | abortLoad (p : PortId)
  /-- COMMIT taken from port `p`; `first` as in MEMORY_ANSWER_ACCESS, for a swap at the sealing. -/
  | commit (p : PortId) (first : List PortId := [])
  /-- CANCEL_COMMIT taken from port `p`. Of the ports whose head accesses the end of the seal releases, those in `first` are
  taken first, in that order, and the others in port order. -/
  | cancelCommit (p : PortId) (first : List PortId := [])
  /-- BIND taken from port `p`. -/
  | bind (p : PortId)
  /-- UNBIND taken from port `p`. -/
  | unbind (p : PortId)
  /-- SET_LEASE taken from port `p`. -/
  | setLease (p : PortId)
  /-- FENCE taken from port `p`. -/
  | fence (p : PortId)
  /-- UNFENCE taken from port `p`. -/
  | unfence (p : PortId)
  /-- RESOLVE with RETRY taken from port `p`. -/
  | resolveRetry (p : PortId)
  /-- RESOLVE with SKIP taken from port `p`. -/
  | resolveSkip (p : PortId)
  /-- RESOLVE with FENCE taken from port `p`. -/
  | resolveFence (p : PortId)
  /-- READ_FAULT taken from port `p`. -/
  | readFault (p : PortId)
  /-- SET_STANDBY taken from port `p`. -/
  | setStandby (p : PortId)
  /-- HANDOVER taken from port `p`. -/
  | handover (p : PortId)
  /-- CONFIGURE taken from port `p`. -/
  | configure (p : PortId)
  /-- SYNC taken from port `p`. -/
  | sync (p : PortId)
  /-- CHECK_PAGE taken from port `p`. -/
  | checkPage (p : PortId)
  /-- CLAIM taken from port `p`. -/
  | claim (p : PortId)
  /-- ACCEPT taken from port `p`. -/
  | accept (p : PortId)
  /-- PORT_RESET: the reset line of port `p` is raised. -/
  | portReset (p : PortId)
  /-- DEVICE_RESET: the device reset line is raised. -/
  | deviceReset
  /-- POWER_UP. -/
  | powerUp
deriving DecidableEq, Repr

end Sys2Proof
end

