-- ==== Sys2Proof/WellFormed.lean ====
section
/-! DEFINITION. Which commands the outside world can send: the ranges the manual gives the operands that the types do not
already hold (R21, R52). -/

namespace Sys2Proof

/-- The ranges of an access request's fields (R21): 1 to 16 beats, and a WRITE carries exactly `4 * beats` bytes of data, a
READ none. -/
def Access.wellFormed (a : Access) : Bool :=
  decide (1 ≤ a.beats) && decide (a.beats ≤ 16) &&
    match a.kind with
    | .read => a.data.isEmpty
    | .write => a.data.length == 4 * a.beats

/-- The shape of an answer of memory whatever transaction it answers (R52): an ERROR carries no data, and the data of a
SUCCESS is a whole number of beats, at most 16 of them. -/
def MemAnswer.wellFormed (a : MemAnswer) : Bool :=
  match a.outcome with
  | .error => a.data.isEmpty
  | .success => a.data.length % 4 == 0 && decide (a.data.length ≤ 64)

/-- A command that the outside world can send. An order names no part of a tick and no port
twice. -/
def Instr.wellFormed : Instr → Bool
  | .accessRequest _ a _ => a.wellFormed
  | .memoryAnswerAccess a first => a.wellFormed && decide first.Nodup
  | .memoryAnswerDescriptor a first => a.wellFormed && decide first.Nodup
  | .commit _ first => decide first.Nodup
  | .cancelCommit _ first => decide first.Nodup
  | .tick first => decide first.Nodup
  | .translateHeadAccess _ | .deliverResponse _ | .grant _ | .leaseExpiry _ | .stallTimerExpiry _ | .renewal _ _
  | .post _ _ | .pop _ _ | .flagWordWrite _ _ | .enableWordWrite _ _ | .apertureStatusWrite _ _
  | .apertureWrite _ _ _ _ | .unknownCommand _ | .putEntry _ | .discard _ | .clear _ | .load _ | .abortLoad _
  | .bind _ | .unbind _ | .setLease _ | .fence _ | .unfence _ | .resolveRetry _
  | .resolveSkip _ | .resolveFence _ | .readFault _ | .setStandby _ | .handover _ | .configure _ | .sync _
  | .checkPage _ | .claim _ | .accept _ | .portReset _ | .deviceReset | .powerUp => true

end Sys2Proof
end

