-- ==== Sys2Proof/Decode.lean ====
section
/-! DEFINITION. The commands that a word spells by the bits of spec/opcode_table.json. No row of the table gives bits (the
hub's steps are events and the taking of command records), so no word spells a command; the layout of a posted command
record (R188) is decoded in Machine/Operands.lean, where the record is taken. -/

namespace Sys2Proof

/-- The command that the low `nbits` bits of `w` spell: none, since no row of the table gives bits. -/
def decodeTableWord (_nbits _w : Nat) : Option Instr := none

end Sys2Proof
end

