-- ==== Sys2Proof/Machine/State.lean ====
section
/-! DEFINITION. The state of the hub: every piece of state the manual gives it, as plain data, and its value after reset. -/

namespace Sys2Proof.Machine

/-! ## Map store (chapter 1) -/

/-- The rights of a map entry (R2). -/
inductive Rights where
  | none
  | ro
  | rw
deriving DecidableEq, Repr

/-- A map entry: a frame and rights (R2). -/
structure Entry where
  frame : Frame
  rights : Rights
deriving DecidableEq, Repr

/-- The entry every image holds after device reset (R19). -/
def Entry.empty : Entry := { frame := 0, rights := .none }

/-- A page map: one entry for each logical page (R1). -/
abbrev Image := Vector Entry 256

/-- The image of R19: every entry NONE, frame 0. -/
def Image.empty : Image := Vector.replicate 256 Entry.empty

/-- The port and tag of the command that created a load job or a pending commit (R6, R61). -/
structure Issuer where
  port : PortId
  tag : Byte
deriving DecidableEq, Repr

/-- The boundary of a pending commit. The waiting set is present for MARK only (R6, R80); its members stand in port order,
each once. -/
inductive Boundary where
  | drain
  | mark (waiting : List PortId)
deriving DecidableEq, Repr

/-- The fields of a pending commit (R6, R80). -/
structure PendingCommit where
  boundary : Boundary
  issuer : Issuer
  owed : Bool
deriving DecidableEq, Repr

/-- The staged condition; a SEALED slot carries its pending commit (R5, R6). -/
inductive Condition where
  | clean
  | dirty
  | sealed (c : PendingCommit)
deriving DecidableEq, Repr

/-- A map slot (R1). -/
structure MapSlot where
  live : Image
  staged : Image
  condition : Condition
  inFlight : Nat
  binders : Nat
deriving DecidableEq, Repr

/-- A map slot after device reset (R19). -/
def MapSlot.reset : MapSlot :=
  { live := Image.empty, staged := Image.empty, condition := .clean, inFlight := 0, binders := 0 }

/-! ## Accesses (chapter 2) -/

/-- The kind of a response (R34). -/
inductive ResponseKind where
  | ok
  | errNomap
  | errFenced
  | errBoundary
  | errDenied
  | errUnresolved
  | errMemory
deriving DecidableEq, Repr

/-- A response to a master (R34); `data` is empty but for an OK on a READ. -/
structure Response where
  tag : Byte
  kind : ResponseKind
  data : List Byte
deriving DecidableEq, Repr

/-- The state of an occupied access slot with the fields present in it (R23): the map slot translated through and the discard
mark in ISSUED, the response in ANSWERED, with the map slot translated through when memory gave the answer. -/
inductive AccessState where
  | untranslated
  | stalled
  | issued (through : SlotId) (discard : Bool)
  | answered (response : Response) (through : Option SlotId)
deriving DecidableEq, Repr

/-- An occupied access slot (R23). Its arrival position is its place in `PortRec.arrival`. -/
structure AccessSlot where
  access : Access
  state : AccessState
deriving DecidableEq, Repr

/-- A request held off on a port's request channel (R22), with the slot it goes into if that slot is free when it is accepted. -/
structure HeldRequest where
  access : Access
  pick : AccId
deriving DecidableEq, Repr

/-! ## The port record (chapters 6 and 7) -/

/-- The closed fraction of a lease (R119). -/
inductive Fraction where
  | zero
  | quarter
  | half
deriving DecidableEq, Repr

/-- The lease parameters of a port (R119). Closed ticks and warning ticks are derived from them. -/
structure LeaseParams where
  period : Nat
  fraction : Fraction
deriving DecidableEq, Repr

/-- The period times the closed fraction, rounded down (R119). -/
def LeaseParams.closedTicks (l : LeaseParams) : Nat :=
  match l.fraction with
  | .zero => 0
  | .quarter => l.period / 4
  | .half => l.period / 2

/-- The period times 3/4, rounded down (R119). -/
def LeaseParams.warningTicks (l : LeaseParams) : Nat := l.period * 3 / 4

/-- The lease parameters after device reset (R118, R119). -/
def LeaseParams.reset : LeaseParams := { period := Config.resetPeriod, fraction := .zero }

/-- The phase of a running lease (R120): FRESH, CLOSED, OPEN or FROZEN. -/
inductive Phase where
  | fresh
  | closed
  | opened
  | frozen
deriving DecidableEq, Repr

/-- A running lease (R120). -/
structure Lease where
  phase : Phase
  remaining : Nat
  expected : BitVec 8
  warned : Bool
deriving DecidableEq, Repr

/-- What a port record holds while the port is bound: the bound slot and the running lease (R102). -/
structure Binding where
  slot : SlotId
  lease : Lease
deriving DecidableEq, Repr

/-- What a port record holds while the port is STALLED: the access slot of the stalled access, the sequence number of its
ACCESS record, and the stall timer when the stall limit was not 0 (R102, R151). -/
structure Stall where
  access : AccId
  seq : BitVec 16
  timer : Option Nat
deriving DecidableEq, Repr

/-- The state of a port, with the fields present in it (R102, R103). -/
inductive PortState where
  | detached
  | attached (b : Binding)
  | stalled (b : Binding) (st : Stall)
  | fenced
deriving DecidableEq, Repr

/-! ## The aperture of a port (chapter 10) -/

/-- A command record: the four staging words as they stood at the post (R170, R188). -/
abbrev CommandRecord := Vector Word 4

/-- The status of a completion (R174). -/
inductive Status where
  | ok
  | notSupervisor
  | badArgument
  | slotBusy
  | portBusy
  | queueFull
  | stale
  | aborted
  | failedMemory
  | badDescriptor
  | cancelled
  | noEffect
deriving DecidableEq, Repr

/-- The action of a RESOLVE (R147). -/
inductive Action where
  | retry
  | skip
  | fence
deriving DecidableEq, Repr

/-- Why a head access failed its entry checks; the frame read is recorded for WRITE_DENIED and FRAME_RANGE only (R32, R139). -/
inductive FaultKind where
  | noEntry
  | writeDenied (frame : Frame)
  | frameRange (frame : Frame)
deriving DecidableEq, Repr

/-- The kind of a lease violation (R126). -/
inductive LeaseKind where
  | expired
  | early
  | sequence
deriving DecidableEq, Repr

/-- The lost-supervisor flag of a LEASE record and, when it is 1, the successor that succession found, if any (R128). -/
inductive SupervisorLoss where
  | kept
  | lost (successor : Option PortId)
deriving DecidableEq, Repr

/-- The class of a fault record and the fields of that class (R139). -/
inductive FaultBody where
  | access (kind : FaultKind) (slot : SlotId) (page : Page) (access : AccessKind) (tag : Byte)
  | lease (kind : LeaseKind) (loss : SupervisorLoss)
deriving DecidableEq, Repr

/-- A fault record (R139). -/
structure FaultRecord where
  seq : BitVec 16
  port : PortId
  stamp : BitVec 32
  body : FaultBody
deriving DecidableEq, Repr

/-- The result of a CHECK_PAGE (R17). The boundary, commit issuer and waiting set stand in `condition`. -/
structure PageReport where
  live : Entry
  staged : Entry
  condition : Condition
  jobs : Nat
  running : Bool
  binders : Nat
  inFlight : Nat
deriving DecidableEq, Repr

/-- The result of a completion, shaped by its command (R174). -/
inductive Result where
  | pagesDone (n : Nat)
  | abortedNumber (n : Nat)
  | commit (swapped : Bool)
  | action (a : Action)
  | page (r : PageReport)
  | fault (r : Option FaultRecord)
deriving DecidableEq, Repr

/-- A completion record (R174). -/
structure Completion where
  tag : Byte
  code : Byte
  status : Status
  result : Option Result
deriving DecidableEq, Repr

/-- A port record of the port table with the port's access slots and aperture (R102, R169). `arrival` lists the occupied
slots that carry no discard mark, oldest arrival position first (R22, R23). -/
structure PortRec where
  state : PortState
  params : LeaseParams
  slots : Vector (Option AccessSlot) 8
  arrival : List AccId
  requests : List HeldRequest
  staging : CommandRecord
  commands : List CommandRecord
  completions : List Completion
  outstanding : Nat
  postRefused : Bool
  renewIgnored : Bool
  flags : BitVec 6
  enables : BitVec 6
deriving DecidableEq, Repr

/-- A port after device reset (R24, R118, R185), with nothing on its request channel. -/
def PortRec.reset : PortRec :=
  { state := .detached, params := LeaseParams.reset, slots := Vector.replicate 8 none, arrival := [], requests := [],
    staging := Vector.replicate 4 0, commands := [], completions := [], outstanding := 0, postRefused := false,
    renewIgnored := false, flags := 0, enables := 0 }

/-! ## Load engine (chapter 4) -/

/-- Where the descriptor read of a RUNNING job stands; the abort mark is present only while it is OUTSTANDING (R61). -/
inductive ReadState where
  | requested
  | outstanding (abortMark : Bool)
deriving DecidableEq, Repr

/-- The state of a load job; pages done is 0 while QUEUED (R61). -/
inductive JobState where
  | queued
  | running (pagesDone : Nat) (read : ReadState)
deriving DecidableEq, Repr

/-- A load job (R61). -/
structure Job where
  slot : SlotId
  first : Page
  count : Nat
  addr : BitVec 24
  issuer : Issuer
  owed : Bool
  state : JobState
deriving DecidableEq, Repr

/-! ## Memory port (chapter 3) -/

/-- A transaction that translation has handed to the arbiter and that is not yet granted (R33, R47). -/
structure Issued where
  access : AccId
  through : SlotId
  kind : AccessKind
  addr : BitVec 24
  beats : Nat
  data : List Byte
deriving DecidableEq, Repr

/-- The requester of an outstanding transaction with the fields of its kind (R46). The load job of a load engine entry is
always the RUNNING one, the head of the load queue: only that job reads (R60), and it stays there until the answer. -/
inductive Requester where
  | port (p : PortId) (access : AccId) (through : SlotId)
  | loadEngine
deriving DecidableEq, Repr

/-- An entry of the outstanding set (R46). -/
structure OutEntry where
  number : TxnId
  generation : BitVec 8
  requester : Requester
  kind : AccessKind
  beats : Nat
deriving DecidableEq, Repr

/-- The memory port: the outstanding set in grant order, the issue queues, the round-robin position (0 to 5 for P0 to P5, 6
for the load engine) and the reset generation (R46, R47, R49). The read request of R48 is presented exactly while the
RUNNING job's read is REQUESTED (R61), so it is read from the load queue (`State.readRequest`). -/
structure MemPort where
  entries : List OutEntry
  issue : Vector (List Issued) 6
  position : Fin 7
  generation : BitVec 8
deriving DecidableEq, Repr

/-- The memory port at power-up (R46, R59). -/
def MemPort.reset : MemPort :=
  { entries := [], issue := Vector.replicate 6 [], position := 0, generation := 0 }

/-- A transaction as it is sent to memory (R50). -/
structure SentTransaction where
  number : TxnId
  generation : BitVec 8
  kind : AccessKind
  addr : BitVec 24
  beats : Nat
  data : List Byte
deriving DecidableEq, Repr

/-! ## Supervisor rights (chapter 9) -/

/-- How the supervisor came to hold its rights (R157). -/
inductive Origin where
  | reset
  | handover
  | succession
  | claim
deriving DecidableEq, Repr

/-- The state of the supervisor rights block; the rights origin is present only while a supervisor exists (R157). -/
structure Holdings where
  supervisor : Option (PortId × Origin)
  standby : Option PortId
  offer : Option PortId
deriving DecidableEq, Repr

/-- The holdings after device reset (R157, R168). -/
def Holdings.reset : Holdings := { supervisor := some (0, .reset), standby := none, offer := none }

/-! ## The whole hub -/

/-- The state of the hub. `sent` and `delivered` are the model's record of what has left the hub: the transactions sent to
memory and the responses delivered to the masters, oldest first; `pending` is the model's queue of commands to come. No rule
of the hub reads these three. -/
structure State where
  slots : Vector MapSlot 16
  ports : Vector PortRec 6
  jobs : List Job
  mem : MemPort
  faults : List FaultRecord
  seqCounter : BitVec 16
  stampCount : BitVec 32
  rights : Holdings
  memsize : Nat
  stallLimit : Nat
  sent : List SentTransaction
  delivered : List (PortId × Response)
  pending : List Instr
deriving DecidableEq, Repr

/-- The hub at power-up: every piece of state at its device-reset value and the reset generation 0 (R19, R46, R59, R79, R118,
R156, R168, R179, R185). -/
def State.reset : State :=
  { slots := Vector.replicate 16 MapSlot.reset, ports := Vector.replicate 6 PortRec.reset, jobs := [],
    mem := MemPort.reset, faults := [], seqCounter := 0, stampCount := 0, rights := Holdings.reset,
    memsize := Config.maxMemsize, stallLimit := 0, sent := [], delivered := [], pending := [] }

/-- The faults of the model: none. Whatever command is given, the hub goes on (an access that fails its checks is answered or
stalled, a command that fails its tests completes with a status), so no constructor stands here. -/
inductive Fault
deriving DecidableEq, Repr

/-- The refusals of the model. -/
inductive Refusal where
  /-- A row of the opcode table that has no meaning yet, by its mnemonic. Raised by `exec` alone; safe. No arm raises it. -/
  | notModelled (mnemonic : String)
deriving DecidableEq, Repr

/-- The outcome of a command. -/
abbrev Outcome := Host.Outcome State Fault Refusal

end Sys2Proof.Machine
end

