-- ==== Sys2Proof/Machine/Flags.lean ====
section
/-! DEFINITION. The event flags of a port, their enables and the interrupt line (R181, R182, R187). -/

namespace Sys2Proof.Machine

/-- The event flags of a port (R181). -/
inductive Flag where
  | completion
  | fault
  | leaseWarn
  | fenced
  | role
  | autoResolved
deriving DecidableEq, Repr

/-- The place of a flag in the flag word and of its enable in the enable word (R187). -/
def Flag.place : Flag → Nat
  | .completion => 0
  | .fault => 1
  | .leaseWarn => 2
  | .fenced => 3
  | .role => 4
  | .autoResolved => 5

/-- The flag word in which this flag alone is 1. -/
def Flag.mask (f : Flag) : BitVec 6 := 1#6 <<< f.place

/-- Whether a flag of the port is 1. -/
def PortRec.flag (r : PortRec) (f : Flag) : Bool := r.flags.getLsbD f.place

/-- Sets a flag; a flag already 1 stays 1, whatever its enable (R181). -/
def PortRec.raise (r : PortRec) (f : Flag) : PortRec := { r with flags := r.flags ||| f.mask }

/-- A write to the flag word clears every flag in whose place `value` has a 1 (R181); bits 31 to 6 are ignored (R186). -/
def PortRec.writeFlags (r : PortRec) (value : Word) : PortRec :=
  { r with flags := r.flags &&& ~~~(value.setWidth 6) }

/-- A write to the enable word sets all six enables (R182); bits 31 to 6 are ignored (R186). -/
def PortRec.writeEnables (r : PortRec) (value : Word) : PortRec := { r with enables := value.setWidth 6 }

/-- The interrupt line: active while at least one flag is 1 and its enable is 1 (R182). -/
def PortRec.interrupt (r : PortRec) : Bool := r.flags &&& r.enables != 0#6

end Sys2Proof.Machine
end

