-- ==== Sys2Proof/Machine/Operands.lean ====
section
/-! DEFINITION. The layout of a command record (R188) and of a descriptor word (R191), and the numbers they name. -/

namespace Sys2Proof.Machine

/-! ## Numbers that name something -/

/-- The port a field names: 0 to 5 (R188). -/
def portOf (b : Byte) : Option PortId := if h : b.toNat < 6 then some ⟨b.toNat, h⟩ else none

/-- The map slot a field names: 0 to 15 (R188). -/
def slotOf (b : Byte) : Option SlotId := if h : b.toNat < 16 then some ⟨b.toNat, h⟩ else none

/-- The page a field names; every value of a byte is a page. -/
def pageOf (b : Byte) : Page := b.toFin

/-- The rights a code names: 0 NONE, 1 RO, 3 RW; the code 2 names none of them (R188, R191). -/
def rightsOf (c : BitVec 2) : Option Rights :=
  match c.toNat with
  | 0 => some .none
  | 1 => some .ro
  | 3 => some .rw
  | _ => none

/-- The code of rights in a completion word and in a descriptor word (R189, R191). -/
def Rights.code : Rights → Nat
  | .none => 0
  | .ro => 1
  | .rw => 3

/-- The closed fraction a code names: 0 zero, 1 one quarter, 2 one half (R188). -/
def fractionOf (c : BitVec 2) : Option Fraction :=
  match c.toNat with
  | 0 => some .zero
  | 1 => some .quarter
  | 2 => some .half
  | _ => none

/-- The action a code names: 0 RETRY, 1 SKIP, 2 FENCE (R188). -/
def actionOf (c : BitVec 2) : Option Action :=
  match c.toNat with
  | 0 => some .retry
  | 1 => some .skip
  | 2 => some .fence
  | _ => none

/-! ## Command records -/

/-- The tag of a command record: word 0, bits 7 to 0 (R188). -/
def CommandRecord.tag (r : CommandRecord) : Byte := r[0].extractLsb' 0 8

/-- The command code of a command record: word 0, bits 15 to 8 (R188). -/
def CommandRecord.code (r : CommandRecord) : Byte := r[0].extractLsb' 8 8

/-- The command a record holds, with the fields the intake reads for its code (R188). -/
inductive Command where
  | putEntry (slot page : Byte) (frame : Frame) (rights : BitVec 2)
  | discard (slot : Byte)
  | clear (slot : Byte)
  | load (slot first : Byte) (count : BitVec 9) (addr : BitVec 24)
  | abortLoad (slot : Byte)
  | commit (slot : Byte) (boundary : BitVec 2)
  | cancelCommit (slot : Byte)
  | bind (port slot : Byte)
  | unbind (port : Byte)
  | setLease (port : Byte) (fraction : BitVec 2) (period : BitVec 16)
  | fence (port : Byte)
  | unfence (port : Byte)
  | resolve (seq : BitVec 16) (action : BitVec 2)
  | readFault (k : Byte)
  | setStandby (port : Byte)
  | handover (port : Byte)
  | configure (memsize : BitVec 13) (stallLimit : BitVec 16)
  | sync
  | checkPage (slot page : Byte)
  | claim
  | accept
  | unknown
deriving DecidableEq, Repr

/-- The command of a record, by the table of R188. Reserved bits and unused words are not read. -/
def CommandRecord.command (r : CommandRecord) : Command :=
  match r.code.toNat with
  | 0x01 => .putEntry (r[1].extractLsb' 0 8) (r[1].extractLsb' 8 8) (r[2].extractLsb' 0 12) (r[2].extractLsb' 12 2)
  | 0x02 => .discard (r[1].extractLsb' 0 8)
  | 0x03 => .clear (r[1].extractLsb' 0 8)
  | 0x04 => .load (r[1].extractLsb' 0 8) (r[1].extractLsb' 8 8) (r[1].extractLsb' 16 9) (r[2].extractLsb' 0 24)
  | 0x05 => .abortLoad (r[1].extractLsb' 0 8)
  | 0x06 => .commit (r[1].extractLsb' 0 8) (r[1].extractLsb' 8 2)
  | 0x07 => .cancelCommit (r[1].extractLsb' 0 8)
  | 0x08 => .bind (r[1].extractLsb' 0 8) (r[1].extractLsb' 8 8)
  | 0x09 => .unbind (r[1].extractLsb' 0 8)
  | 0x0A => .setLease (r[1].extractLsb' 0 8) (r[1].extractLsb' 8 2) (r[2].extractLsb' 0 16)
  | 0x0B => .fence (r[1].extractLsb' 0 8)
  | 0x0C => .unfence (r[1].extractLsb' 0 8)
  | 0x0D => .resolve (r[1].extractLsb' 0 16) (r[1].extractLsb' 16 2)
  | 0x0E => .readFault (r[1].extractLsb' 0 8)
  | 0x0F => .setStandby (r[1].extractLsb' 0 8)
  | 0x10 => .handover (r[1].extractLsb' 0 8)
  | 0x11 => .configure (r[1].extractLsb' 0 13) (r[2].extractLsb' 0 16)
  | 0x20 => .sync
  | 0x21 => .checkPage (r[1].extractLsb' 0 8) (r[1].extractLsb' 8 8)
  | 0x22 => .claim
  | 0x23 => .accept
  | _ => .unknown

/-- The code of a command (R188); `unknown` has none, and 0 stands for it here. -/
def Command.code : Command → Byte
  | .putEntry _ _ _ _ => 0x01
  | .discard _ => 0x02
  | .clear _ => 0x03
  | .load _ _ _ _ => 0x04
  | .abortLoad _ => 0x05
  | .commit _ _ => 0x06
  | .cancelCommit _ => 0x07
  | .bind _ _ => 0x08
  | .unbind _ => 0x09
  | .setLease _ _ _ => 0x0A
  | .fence _ => 0x0B
  | .unfence _ => 0x0C
  | .resolve _ _ => 0x0D
  | .readFault _ => 0x0E
  | .setStandby _ => 0x0F
  | .handover _ => 0x10
  | .configure _ _ => 0x11
  | .sync => 0x20
  | .checkPage _ _ => 0x21
  | .claim => 0x22
  | .accept => 0x23
  | .unknown => 0x00

/-- Words 1 and 2 of the record that holds a command, reserved bits zero (R188). -/
def Command.argumentWords : Command → Word × Word
  | .putEntry slot page frame rights => (0#16 ++ page ++ slot, 0#18 ++ rights ++ frame)
  | .load slot first count addr => (0#7 ++ count ++ first ++ slot, 0#8 ++ addr)
  | .commit slot boundary => (0#22 ++ boundary ++ slot, 0)
  | .bind port slot => (0#16 ++ slot ++ port, 0)
  | .setLease port fraction period => (0#22 ++ fraction ++ port, 0#16 ++ period)
  | .resolve seq action => (0#14 ++ action ++ seq, 0)
  | .configure memsize stallLimit => (0#19 ++ memsize, 0#16 ++ stallLimit)
  | .checkPage slot page => (0#16 ++ page ++ slot, 0)
  | .discard b | .clear b | .abortLoad b | .cancelCommit b | .unbind b | .fence b | .unfence b | .readFault b
  | .setStandby b | .handover b => (0#24 ++ b, 0)
  | .sync | .claim | .accept | .unknown => (0, 0)

/-- The command record that a master builds for a command with a tag (R188), reserved bits and word 3 zero. -/
def Command.record (c : Command) (tag : Byte) : CommandRecord :=
  #v[0#16 ++ c.code ++ tag, c.argumentWords.1, c.argumentWords.2, 0]

/-! ## Descriptor words -/

/-- What a descriptor word asks for (R66, R191). -/
inductive Descriptor where
  | malformed
  | keep
  | set (frame : Frame) (rights : Rights)
deriving DecidableEq, Repr

/-- The descriptor a word holds: frame in bits 11 to 0, rights code in bits 13 to 12, every other bit zero (R191). -/
def descriptorOf (w : Word) : Descriptor :=
  if w.extractLsb' 14 18 = 0 then
    match rightsOf (w.extractLsb' 12 2) with
    | some rights => .set (w.extractLsb' 0 12) rights
    | none => .keep
  else .malformed

/-- The word whose four bytes memory returned, the byte at the lowest address first (chapter 11). -/
def wordOfBytes (bytes : List Byte) : Word :=
  bytes.getD 3 0 ++ bytes.getD 2 0 ++ bytes.getD 1 0 ++ bytes.getD 0 0

end Sys2Proof.Machine
end

