-- ==== Sys2Proof/Machine/Ops.lean ====
section
/-! DEFINITION. The shared operations of the hub: reading and writing its records, completing a command, joining and retiring
fault records, moving supervisor rights, the waiting sets, entering FENCED, the end of a stall, and the load queue. Every
meaning is written over these and over translation (Machine/Translation.lean). -/

namespace Sys2Proof.Machine

/-! ## Ports and slots -/

/-- The record of port `p`. -/
def State.port (s : State) (p : PortId) : PortRec := s.ports[p]

/-- Changes the record of port `p`. -/
def State.modifyPort (s : State) (p : PortId) (f : PortRec → PortRec) : State :=
  { s with ports := s.ports.set p (f s.ports[p]) }

/-- Map slot `n`. -/
def State.slot (s : State) (n : SlotId) : MapSlot := s.slots[n]

/-- Changes map slot `n`. -/
def State.modifySlot (s : State) (n : SlotId) (f : MapSlot → MapSlot) : State :=
  { s with slots := s.slots.set n (f s.slots[n]) }

/-- The binding of a port, present when it is ATTACHED or STALLED (R103). -/
def PortState.binding? : PortState → Option Binding
  | .detached => none
  | .attached b => some b
  | .stalled b _ => some b
  | .fenced => none

/-- The slot a port's binding names, if it has one. -/
def PortState.boundSlot? (st : PortState) : Option SlotId := st.binding?.map (·.slot)

/-- Whether a port is ATTACHED. -/
def PortState.isAttached : PortState → Bool
  | .attached _ => true
  | .detached | .stalled _ _ | .fenced => false

/-- Whether a port is ATTACHED or STALLED (R103). -/
def PortState.isBound (st : PortState) : Bool := st.binding?.isSome

/-- Whether a port is FENCED. -/
def PortState.isFenced : PortState → Bool
  | .fenced => true
  | .detached | .attached _ | .stalled _ _ => false

/-- Whether the slot is SEALED. -/
def Condition.isSealed : Condition → Bool
  | .sealed _ => true
  | .clean | .dirty => false

/-- Whether the slot is SEALED with boundary DRAIN (R28). -/
def Condition.holdsTranslation : Condition → Bool
  | .sealed c => match c.boundary with
    | .drain => true
    | .mark _ => false
  | .clean | .dirty => false

/-- The number of load jobs that name a slot (R17). -/
def State.jobCount (s : State) (n : SlotId) : Nat := s.jobs.countP (·.slot = n)

/-- Whether a slot is load-held (R9). -/
def State.loadHeld (s : State) (n : SlotId) : Bool := s.jobs.any (·.slot = n)

/-! ## Commands taken and completed -/

/-- What a taken command is known by when it completes: the port it was taken from, its tag and its code as posted (R173). -/
structure Taken where
  port : PortId
  tag : Byte
  code : Byte
deriving DecidableEq, Repr

/-- A completion record joins the tail of a port's completion queue and sets its COMPLETION flag (R175, R181). -/
def State.join (s : State) (p : PortId) (c : Completion) : State :=
  s.modifyPort p fun r => PortRec.raise { r with completions := r.completions ++ [c] } .completion

/-- A taken command completes with a status and, where its rule gives one, a result (R173, R174). -/
def State.complete (s : State) (t : Taken) (status : Status) (result : Option Result := none) : State :=
  s.join t.port { tag := t.tag, code := t.code, status := status, result := result }

/-- The record at the head of port `p`'s command queue is taken (R172) when `body` takes it: `body` gets the taken command and
the state with the record out of the queue, and answers `none` when the record is not one of its row of the opcode table.
Then, and when the queue is empty, this happening does not come about and nothing changes. -/
def State.take (s : State) (p : PortId) (body : Taken → Command → State → Option State) : State :=
  match (s.port p).commands with
  | [] => s
  | r :: rest =>
    (body { port := p, tag := r.tag, code := r.code } r.command
      (s.modifyPort p fun q => { q with commands := rest })).getD s

/-- The port that holds supervisor rights, if one does (R157). -/
def Holdings.holder (h : Holdings) : Option PortId := h.supervisor.map (·.1)

/-- Whether a port holds supervisor rights (R157). -/
def Holdings.isSupervisor (h : Holdings) (p : PortId) : Bool := h.holder = some p

/-- The rights check of a supervisor-only command (R159, R173): from a port without rights it completes NOT_SUPERVISOR and
changes nothing, otherwise the owning block carries it out. -/
def State.supervisorOnly (s : State) (t : Taken) (carryOut : State → State) : State :=
  if s.rights.isSupervisor t.port then carryOut s else s.complete t .notSupervisor

/-! ## Supervisor rights -/

/-- The role of a port (R157). -/
inductive Role where
  | none
  | supervisor
  | standby
  | offered
  | standbyOffered
deriving DecidableEq, Repr

/-- The role the holdings give a port (R157). -/
def Holdings.role (h : Holdings) (p : PortId) : Role :=
  if h.isSupervisor p then .supervisor
  else if h.standby = some p then if h.offer = some p then .standbyOffered else .standby
  else if h.offer = some p then .offered
  else .none

/-- The holdings change, and the ROLE flag of every port whose own role changes is set in the same happening (R158). -/
def State.moveRights (s : State) (h : Holdings) : State :=
  { s with
    rights := h
    ports := Vector.ofFn fun p => if s.rights.role p = h.role p then s.ports[p] else s.ports[p].raise .role }

/-- Succession when the supervisor port is lost (R163): the offer is withdrawn; a standby that is ATTACHED becomes supervisor,
any other keeps its designation and no port holds rights. -/
def State.succession (s : State) : State :=
  match s.rights.standby with
  | none => s.moveRights { supervisor := none, standby := none, offer := none }
  | some b =>
    if (s.port b).state.isAttached then
      s.moveRights { supervisor := some (b, .succession), standby := none, offer := none }
    else s.moveRights { supervisor := none, standby := some b, offer := none }

/-- A fence or a port reset ends every role of a port: succession when it held supervisor rights (R163), otherwise the end of
its standby designation and of its offer (R164). -/
def State.endRoles (s : State) (p : PortId) : State :=
  if s.rights.isSupervisor p then s.succession
  else s.moveRights
    { s.rights with
      standby := if s.rights.standby = some p then none else s.rights.standby
      offer := if s.rights.offer = some p then none else s.rights.offer }

/-- Sets a flag of the port that holds supervisor rights, if one does (R142, R152). -/
def State.raiseSupervisor (s : State) (f : Flag) : State :=
  match s.rights.holder with
  | some p => s.modifyPort p (·.raise f)
  | none => s

/-! ## The fault queue -/

/-- The first number from `n` on, passing from 65535 to 0, that is not among `held`; `fuel` numbers are tried (R140). -/
def freeSequence (held : List (BitVec 16)) : Nat → BitVec 16 → BitVec 16
  | 0, n => n
  | fuel + 1, n => if n ∈ held then freeSequence held fuel (n + 1) else n

/-- The sequence number the next record to join receives (R140). -/
def State.nextSequence (s : State) : BitVec 16 :=
  freeSequence (s.faults.map (·.seq)) s.faults.length s.seqCounter

/-- A record joins the tail of the fault queue with its sequence number and tick stamp, the counter moves on, and the FAULT
flag of the supervisor is set (R140, R141, R142). -/
def State.joinFault (s : State) (p : PortId) (body : FaultBody) : State :=
  State.raiseSupervisor
    { s with
      faults := s.faults ++ [{ seq := s.nextSequence, port := p, stamp := s.stampCount, body := body }]
      seqCounter := s.nextSequence + 1 } .fault

/-- Whether a record is of class ACCESS. -/
def FaultBody.isAccess : FaultBody → Bool
  | .access _ _ _ _ _ => true
  | .lease _ _ => false

/-- The ACCESS record of a port retires (R145). -/
def State.retireAccess (s : State) (p : PortId) : State :=
  { s with faults := s.faults.filter fun r => !(r.body.isAccess && r.port = p) }

/-- The LEASE record of a port retires (R145). -/
def State.retireLease (s : State) (p : PortId) : State :=
  { s with faults := s.faults.filter fun r => !(!r.body.isAccess && r.port = p) }

/-! ## The swap and the waiting sets -/

/-- The slot after its swap (R15): the 256 staged entries are live and the slot is CLEAN, without a pending commit. -/
def MapSlot.swapped (m : MapSlot) : MapSlot := { m with live := m.staged, condition := .clean }

/-- The completion of a COMMIT that has sealed a slot joins its issuer's completion queue if it is owed (R89, R91). -/
def State.completeCommit (s : State) (c : PendingCommit) (status : Status) (result : Option Result) : State :=
  if c.owed then
    s.complete { port := c.issuer.port, tag := c.issuer.tag, code := (Command.commit 0 0).code } status result
  else s

/-- The swap of a slot sealed with MARK, whose pending commit was `c` (R15, R89): the staged image becomes live, the slot becomes
CLEAN, and an owed completion "swapped" joins the issuer's queue. A MARK seal holds no translation, so none follows. -/
def State.swapMark (s : State) (n : SlotId) (c : PendingCommit) : State :=
  (s.modifySlot n (·.swapped)).completeCommit c .ok (some (.commit true))

/-- Whether a pending commit on a slot with this in-flight count has reached its boundary (R83, R87). -/
def PendingCommit.reached (c : PendingCommit) (inFlight : Nat) : Bool :=
  match c.boundary with
  | .drain => inFlight = 0
  | .mark waiting => waiting.isEmpty

/-- The members of a slot's waiting set; empty unless it is SEALED with MARK (R17). -/
def Condition.waiting : Condition → List PortId
  | .sealed c => match c.boundary with
    | .drain => []
    | .mark waiting => waiting
  | .clean | .dirty => []

/-- A port leaves the waiting set of a slot if it is a member, and the swap follows if the set is now empty (R86, R87). -/
def State.leaveWaiting (s : State) (p : PortId) (n : SlotId) : State :=
  match (s.slot n).condition with
  | .sealed c => match c.boundary with
    | .drain => s
    | .mark waiting =>
      if p ∈ waiting then
        if (waiting.filter (· ≠ p)).isEmpty then s.swapMark n c
        else
          s.modifySlot n fun m =>
            { m with condition := .sealed { c with boundary := .mark (waiting.filter (· ≠ p)) } }
      else s
  | .clean | .dirty => s

/-! ## Bindings and fences -/

/-- The binder count of a slot rises by one (R8). -/
def State.raiseBinders (s : State) (n : SlotId) : State :=
  s.modifySlot n fun m => { m with binders := m.binders + 1 }

/-- The binder count of a slot falls by one (R8). -/
def State.lowerBinders (s : State) (n : SlotId) : State :=
  s.modifySlot n fun m => { m with binders := m.binders - 1 }

/-- A port takes a state without a binding. A binding it had is removed with the effects of R109: the running lease stops, the
binder count of its slot falls, and the port leaves the slot's waiting set, with the swap if the set empties. -/
def State.detach (s : State) (p : PortId) (st : PortState) : State :=
  match (s.port p).state.boundSlot? with
  | some n => ((s.modifyPort p ({ · with state := st })).lowerBinders n).leaveWaiting p n
  | none => s.modifyPort p ({ · with state := st })

/-- An access slot answered without memory: the response has no data and the write data is discarded (R36, R37). -/
def AccessSlot.answer (a : AccessSlot) (kind : ResponseKind) : AccessSlot :=
  { access := { a.access with data := [] }
    state := .answered { tag := a.access.tag, kind := kind, data := [] } none }

/-- Changes every occupied access slot of a port; `none` frees it. -/
def PortRec.mapSlots (r : PortRec) (f : AccessSlot → Option AccessSlot) : PortRec :=
  { r with slots := Vector.ofFn fun k => r.slots[k].bind f }

/-- Every untranslated access of a port, the stalled one included, is answered ERR_FENCED (R127). -/
def PortRec.answerFenced (r : PortRec) : PortRec :=
  r.mapSlots fun a => match a.state with
    | .untranslated | .stalled => some (a.answer .errFenced)
    | .issued _ _ | .answered _ _ => some a

/-- A lease violation adds a LEASE record to the fault queue (R128); `held` says whether the port held supervisor rights when it
violated, and the holder after succession is the successor. A fence by command adds no record. -/
def State.recordViolation (s : State) (p : PortId) (held : Bool) : Option LeaseKind → State
  | none => s
  | some kind => s.joinFault p (.lease kind (if held then .lost s.rights.holder else .kept))

/-- A port enters FENCED (R127), with a LEASE record when the cause is a lease violation, by the parts of that rule in order:
its untranslated accesses and a stalled one are answered ERR_FENCED and the ACCESS record retires; its binding is removed; it is
FENCED; its roles end; the LEASE record joins; its FENCED flag is set. -/
def State.enterFenced (s : State) (p : PortId) (cause : Option LeaseKind) : State :=
  ((((s.modifyPort p (·.answerFenced)).retireAccess p).detach p .fenced |>.endRoles p).recordViolation p
    (s.rights.isSupervisor p) cause).modifyPort p (·.raise .fenced)

/-! ## Leases and stalls -/

/-- The lease that starts at the BIND of a DETACHED port (R106, R110). -/
def LeaseParams.start (l : LeaseParams) : Lease :=
  { phase := .fresh, remaining := l.period, expected := 0, warned := false }

/-- The lease as it restarts when a stall ends with the port ATTACHED (R110, R148): FRESH, the full period, warned clear, the
expected renewal number kept. -/
def LeaseParams.restart (l : LeaseParams) (lease : Lease) : Lease :=
  { phase := .fresh, remaining := l.period, expected := lease.expected, warned := false }

/-- The stall of port `p` ends with the port ATTACHED (R148, R149, R152): the ACCESS record retires, the access slot of the
stalled access changes by `f`, the binding is as it was, the stall timer is gone and the lease restarts FRESH. -/
def State.endStall (s : State) (p : PortId) (f : AccessSlot → AccessSlot) : State :=
  match (s.port p).state with
  | .stalled b st =>
    (s.retireAccess p).modifyPort p fun r =>
      { r with
        slots := r.slots.set st.access (r.slots[st.access].map f)
        state := .attached { b with lease := r.params.restart b.lease } }
  | .detached | .attached _ | .fenced => s

/-! ## Access slots -/

/-- The access slot a request goes into: `pick` if it is free, else the free slot of lowest number; none when all eight are
occupied (R22). -/
def PortRec.freeSlot (r : PortRec) (pick : AccId) : Option AccId :=
  (pick :: List.finRange 8).find? fun k => r.slots[k].isNone

/-- A request is accepted into a free slot and takes the next arrival position (R22, R23). -/
def PortRec.accept (r : PortRec) (k : AccId) (a : Access) : PortRec :=
  { r with slots := r.slots.set k (some { access := a, state := .untranslated }), arrival := r.arrival ++ [k] }

/-- Requests waiting on the request channel are accepted in order while a slot is free; the rest stays there (R22). -/
def PortRec.acceptFrom (r : PortRec) : List HeldRequest → PortRec
  | [] => { r with requests := [] }
  | h :: rest =>
    match r.freeSlot h.pick with
    | some k => (r.accept k h.access).acceptFrom rest
    | none => { r with requests := h :: rest }

/-- The port accepts what its request channel holds, as far as it has free slots (R22). -/
def PortRec.acceptHeld (r : PortRec) : PortRec := r.acceptFrom r.requests

/-! ## The load queue -/

/-- The address of the word a job reads for its page `i` (R64). -/
def Job.wordAddress (j : Job) (i : Nat) : BitVec 24 := j.addr + BitVec.ofNat 24 (4 * i)

/-- The logical page a job works on when `done` pages are done (R61). -/
def Job.page (j : Job) (done : Nat) : Page := Fin.ofNat 256 (j.first.val + done)

/-- The read request the load engine presents: the address of the word the RUNNING job reads next, while its read is
REQUESTED (R48, R65). -/
def State.readRequest (s : State) : Option (BitVec 24) :=
  match s.jobs with
  | [] => none
  | j :: _ => match j.state with
    | .running done .requested => some (j.wordAddress done)
    | .running _ (.outstanding _) | .queued => none

/-- A job that reaches the head of the load queue becomes RUNNING and presents its first read (R65). -/
def startHead : List Job → List Job
  | [] => []
  | j :: rest => match j.state with
    | .queued => { j with state := .running 0 .requested } :: rest
    | .running _ _ => j :: rest

/-- The completion of an ended job joins its issuer's completion queue if it is owed (R71). -/
def State.completeJob (s : State) (j : Job) (status : Status) (done : Nat) : State :=
  if j.owed then
    s.complete { port := j.issuer.port, tag := j.issuer.tag, code := (Command.load 0 0 0 0).code } status
      (some (.pagesDone done))
  else s

/-- The descriptor write of the load engine (R14): the staged entry of the page receives the frame and rights, and the slot is
DIRTY; a KEEP leaves both as they were. -/
def State.descriptorWrite (s : State) (n : SlotId) (page : Page) : Descriptor → State
  | .set frame rights =>
    s.modifySlot n fun m => { m with staged := m.staged.set page { frame := frame, rights := rights }, condition := .dirty }
  | .keep | .malformed => s

end Sys2Proof.Machine
end

