-- ==== Sys2Proof/Machine/Translation.lean ====
section
/-! DEFINITION. Translation (chapter 2): what becomes of a port's head access, with the stall that a failed entry check makes
(R143), and the happenings at which a held head access is translated: the swap of a slot sealed with DRAIN and the cancellation
of its commit (R27, R89, R91). -/

namespace Sys2Proof.Machine

/-! ## The head access -/

/-- The head access of a port: the UNTRANSLATED access with the oldest arrival position (R25). -/
def PortRec.head? (r : PortRec) : Option (AccId × Access) :=
  r.arrival.findSome? fun k => match r.slots[k] with
    | some { access := a, state := .untranslated } => some (k, a)
    | _ => none

/-- The page an access addresses (R21). -/
def accessPage (a : Access) : Page := Fin.ofNat 256 (a.addr.toNat / Config.pageBytes)

/-- The offset of an access within its page (R21). -/
def accessOffset (a : Access) : Nat := a.addr.toNat % Config.pageBytes

/-- The shape checks (R29): the address is a multiple of 4, and the access does not reach into the next page. -/
def shapeChecks (a : Access) : Bool :=
  a.addr.toNat % 4 = 0 && accessOffset a + a.beats * 4 ≤ Config.pageBytes

/-- The entry checks (R31, R32), the rights before the frame: the kind of the fault, or none when all pass. -/
def entryFault (memsize : Nat) (e : Entry) (kind : AccessKind) : Option FaultKind :=
  match e.rights, kind with
  | .none, _ => some .noEntry
  | .ro, .write => some (.writeDenied e.frame)
  | .ro, .read | .rw, _ => if memsize ≤ e.frame.toNat then some (.frameRange e.frame) else none

/-- The physical address of an access: frame times 4096 plus the offset (R33). -/
def physicalAddress (frame : Frame) (a : Access) : BitVec 24 :=
  BitVec.ofNat 24 (frame.toNat * Config.pageBytes + accessOffset a)

/-- An error answer made at translation (R36): the head access's slot becomes ANSWERED. -/
def State.answerHead (s : State) (p : PortId) (k : AccId) (a : Access) (kind : ResponseKind) : State :=
  s.modifyPort p fun r =>
    { r with slots := r.slots.set k (some (AccessSlot.answer { access := a, state := .untranslated } kind)) }

/-- The transaction that an access hands to the arbiter (R33). -/
def issuedTransaction (k : AccId) (a : Access) (n : SlotId) (frame : Frame) : Issued :=
  { access := k, through := n, kind := a.kind, addr := physicalAddress frame a, beats := a.beats, data := a.data }

/-- A transaction joins the tail of a port's issue queue (R47). -/
def MemPort.enqueue (m : MemPort) (p : PortId) (t : Issued) : MemPort :=
  { m with issue := m.issue.set p (m.issue[p] ++ [t]) }

/-- The in-flight count of a slot rises by one (R7). -/
def State.raiseInFlight (s : State) (n : SlotId) : State :=
  s.modifySlot n fun m => { m with inFlight := m.inFlight + 1 }

/-- The issue of an access that passes its checks (R33, R47): its slot becomes ISSUED, the in-flight count of the slot
translated through rises by one, and the transaction joins the tail of its port's issue queue. -/
def State.issueAccess (s : State) (p : PortId) (k : AccId) (a : Access) (n : SlotId) (frame : Frame) : State :=
  { (s.modifyPort p fun r =>
      { r with slots := r.slots.set k (some { access := a, state := .issued n false }) }).raiseInFlight n with
    mem := s.mem.enqueue p (issuedTransaction k a n frame) }

/-- The port record after a stall (R143, parts 1 and 3 to 5): the slot is STALLED, the port keeps its binding with the lease
FROZEN, and the stall timer starts at the stall limit unless that is 0. -/
def PortRec.stallOn (r : PortRec) (k : AccId) (a : Access) (b : Binding) (seq : BitVec 16) (limit : Nat) : PortRec :=
  { r with
    slots := r.slots.set k (some { access := a, state := .stalled })
    state := .stalled { b with lease := { b.lease with phase := .frozen } }
      { access := k, seq := seq, timer := if limit = 0 then none else some limit } }

/-- The stall of a port whose head access failed an entry check (R32, R143): the slot becomes STALLED, the ACCESS record joins
the fault queue, the port becomes STALLED with its binding kept and its lease FROZEN, the stall timer starts unless the stall
limit is 0, and the port leaves the waiting set of its slot. -/
def State.stallPort (s : State) (p : PortId) (k : AccId) (a : Access) (b : Binding) (kind : FaultKind) : State :=
  ((s.joinFault p (.access kind b.slot (accessPage a) a.kind a.tag)).modifyPort p
    (·.stallOn k a b s.nextSequence s.stallLimit)).leaveWaiting p b.slot

/-- The translation of a head access of an ATTACHED port (R28 to R33): it waits at a DRAIN seal; it is answered ERR_BOUNDARY
when a shape check fails; it stalls the port when an entry check against the live entry fails; otherwise it is issued. -/
def State.translateBound (s : State) (p : PortId) (k : AccId) (a : Access) (b : Binding) : State :=
  if (s.slot b.slot).condition.holdsTranslation then s
  else if shapeChecks a then
    match entryFault s.memsize (s.slot b.slot).live[accessPage a] a.kind with
    | some kind => s.stallPort p k a b kind
    | none => s.issueAccess p k a b.slot (s.slot b.slot).live[accessPage a].frame
  else s.answerHead p k a .errBoundary

/-- The translation of a port's head access (R25, R26): decided by the port's state. -/
def State.translateHead (s : State) (p : PortId) : State :=
  match (s.port p).head? with
  | none => s
  | some (k, a) =>
    match (s.port p).state with
    | .fenced => s.answerHead p k a .errFenced
    | .detached => s.answerHead p k a .errNomap
    | .stalled _ _ => s
    | .attached b => s.translateBound p k a b

/-! ## The end of a DRAIN hold -/

/-- The ports that are ATTACHED and whose binding names the slot, in port order (R85, R89). -/
def State.attachedTo (s : State) (n : SlotId) : List PortId :=
  (List.finRange 6).filter fun q => (s.port q).state.isAttached && (s.port q).state.boundSlot? = some n

/-- The order in which ports are taken: those of `first` in that order (a port named more than once, at its last place), then
the others. Every order of the ports is `portOrder first` for some `first`, and each port is taken exactly once. -/
def portOrder (first : List PortId) : List PortId := first.dedup ++ (List.finRange 6).filter (· ∉ first)

/-- The hold of a DRAIN seal ends (R27, R89, R91): the head access of each ATTACHED port bound to the slot is translated through
the live image then in force. The manual does not order the ports; `first` does. -/
def State.release (s : State) (n : SlotId) (first : List PortId) : State :=
  ((portOrder first).filter (· ∈ s.attachedTo n)).foldl State.translateHead s

/-- The swap of a slot sealed with DRAIN, whose pending commit was `c` (R15, R89): the staged image becomes live and the slot
CLEAN; the hold on translation ends; an owed completion "swapped" joins the issuer's queue. -/
def State.swapDrain (s : State) (n : SlotId) (c : PendingCommit) (first : List PortId) : State :=
  ((s.modifySlot n (·.swapped)).release n first).completeCommit c .ok (some (.commit true))

/-- Commit control tests the boundary of a slot and makes the swap when it is reached (R82, R83, R87). -/
def State.testBoundary (s : State) (n : SlotId) (first : List PortId) : State :=
  match (s.slot n).condition with
  | .sealed c =>
    if c.reached (s.slot n).inFlight then
      match c.boundary with
      | .drain => s.swapDrain n c first
      | .mark _ => s.swapMark n c
    else s
  | .clean | .dirty => s

/-- The hold that a slot's seal had on port `p`'s head access, if it had one, has ended for it, and the head access is
translated (R27). -/
def State.translateReleased (s : State) (p : PortId) (was : Condition) : State :=
  if was.holdsTranslation then s.translateHead p else s

end Sys2Proof.Machine
end

