-- ==== Sys2Proof/Machine/Access.lean ====
section
/-! DEFINITION. The access stream of a port: ACCESS_REQUEST, TRANSLATE_HEAD_ACCESS and DELIVER_RESPONSE (chapter 2). -/

namespace Sys2Proof.Machine

/-- ACCESS_REQUEST (R22): the request comes to the tail of the port's request channel; the port accepts what the channel holds
while it has a free access slot, whatever the port's state. -/
def execAccessRequest (p : PortId) (a : Access) (pick : AccId) (s : State) : Outcome :=
  .next <| s.modifyPort p fun r =>
    PortRec.acceptHeld { r with requests := r.requests ++ [{ access := a, pick := pick }] }

/-- TRANSLATE_HEAD_ACCESS (R25, R26). -/
def execTranslateHeadAccess (p : PortId) (s : State) : Outcome := .next (s.translateHead p)

/-- DELIVER_RESPONSE (R40): when the slot with the oldest arrival position is ANSWERED, its response leaves the port and the
slot is free; a request held off is then accepted (R22). Otherwise nothing is delivered. -/
def execDeliverResponse (p : PortId) (s : State) : Outcome :=
  match (s.port p).arrival with
  | [] => .next s
  | k :: rest =>
    match (s.port p).slots[k] with
    | some { access := _, state := .answered response _ } =>
      .next <| State.modifyPort { s with delivered := s.delivered ++ [(p, response)] } p fun r =>
        PortRec.acceptHeld { r with slots := r.slots.set k none, arrival := rest }
    | _ => .next s

end Sys2Proof.Machine
end

