-- ==== Sys2Proof/Machine/Ticks.lean ====
section
/-! DEFINITION. The tick and the renewal: TICK, LEASE_EXPIRY, STALL_TIMER_EXPIRY and RENEWAL (chapter 7, R141, R151, R152). -/

namespace Sys2Proof.Machine

/-- Whether a running lease counts ticks and takes renewals: in every phase but FROZEN (R120). -/
def Phase.counts : Phase → Bool
  | .fresh | .closed | .opened => true
  | .frozen => false

/-- A lease after one tick (R121, steps 1 to 3); the elapsed ticks are the period minus the remaining ticks (R120). The remaining
ticks fall, CLOSED becomes OPEN when the closed ticks have elapsed, and the warned flag is set when the warning ticks have. -/
def LeaseParams.count (l : LeaseParams) (lease : Lease) : Lease :=
  { lease with
    remaining := lease.remaining - 1
    phase :=
      if lease.phase = .closed && l.period - (lease.remaining - 1) = l.closedTicks then .opened else lease.phase
    warned := lease.warned || l.period - (lease.remaining - 1) = l.warningTicks }

/-- The port record with its lease after one tick; the warning sets LEASE_WARN (R121, R122). -/
def PortRec.countTick (r : PortRec) (b : Binding) : PortRec :=
  if (r.params.count b.lease).warned && !b.lease.warned then
    PortRec.raise { r with state := .attached { b with lease := r.params.count b.lease } } .leaseWarn
  else { r with state := .attached { b with lease := r.params.count b.lease } }

/-- A tick is taken at port `p`'s lease (R121, R122): an ATTACHED port's lease counts it, and a lease with no ticks remaining is
an EXPIRED violation (R126). Any other port is left as it was. -/
def State.tickLease (s : State) (p : PortId) : State :=
  match (s.port p).state with
  | .attached b =>
    if b.lease.phase.counts then
      if ((s.port p).params.count b.lease).remaining = 0 then
        (s.modifyPort p (·.countTick b)).enterFenced p (some .expired)
      else s.modifyPort p (·.countTick b)
    else s
  | .detached | .stalled _ _ | .fenced => s

/-- The stall timer of port `p` expires (R152): the stalled access is answered ERR_UNRESOLVED, the stall ends with the port
ATTACHED, AUTO_RESOLVED is set on the supervisor, and the port goes on as after a SKIP: its next head access is translated
(R27). -/
def State.expireTimer (s : State) (p : PortId) : State :=
  ((s.endStall p (·.answer .errUnresolved)).raiseSupervisor .autoResolved).translateHead p

/-- A tick is taken at port `p`'s stall timer (R151): a running timer falls by one, and expires at 0. -/
def State.tickTimer (s : State) (p : PortId) : State :=
  match (s.port p).state with
  | .stalled b st => match st.timer with
    | some t =>
      if t - 1 = 0 then s.expireTimer p
      else s.modifyPort p ({ · with state := .stalled b { st with timer := some (t - 1) } })
    | none => s
  | .detached | .attached _ | .fenced => s

/-- A tick is taken at the tick stamp count, which passes from 4294967295 to 0 (R141). -/
def State.tickStamp (s : State) : State := { s with stampCount := s.stampCount + 1 }

/-- One part of a tick. -/
def State.tickPart (s : State) : TickPart → State
  | .stamp => s.tickStamp
  | .lease p => s.tickLease p
  | .timer p => s.tickTimer p

/-- The parts of a tick: the stamp count, the lease of each port, the stall timer of each port. -/
def tickParts : List TickPart :=
  .stamp :: (List.finRange 6).map .lease ++ (List.finRange 6).map .timer

/-- The order in which a tick's parts are taken: those of `first` in that order (a part named more than once, at
its last place), then the others. Every order of the parts is `tickOrder first` for some `first`, and each part is taken exactly
once. -/
def tickOrder (first : List TickPart) : List TickPart :=
  first.dedup ++ tickParts.filter (· ∉ first)

/-- TICK (R121, R141, R151): one pulse of the tick line reaches the tick stamp count, every lease and every stall timer, each
part on its own piece of state. The manual orders no part before another (R153), so the order is the operand's. -/
def execTick (first : List TickPart) (s : State) : Outcome := .next ((tickOrder first).foldl State.tickPart s)

/-- LEASE_EXPIRY (R126): the tick that takes port `p`'s remaining ticks to 0 is taken at its lease. While no such tick is due
(the lease is not running, or more than one tick remains) nothing comes about. -/
def execLeaseExpiry (p : PortId) (s : State) : Outcome :=
  match (s.port p).state with
  | .attached b => if b.lease.remaining = 1 then .next (s.tickLease p) else .next s
  | .detached | .stalled _ _ | .fenced => .next s

/-- STALL_TIMER_EXPIRY (R151, R152): the tick that takes port `p`'s stall timer to 0 is taken at it. While no such tick is due
nothing comes about. -/
def execStallTimerExpiry (p : PortId) (s : State) : Outcome :=
  match (s.port p).state with
  | .stalled _ st => if st.timer = some 1 then .next (s.tickTimer p) else .next s
  | .detached | .attached _ | .fenced => .next s

/-- A lease after an accepted renewal (R124): the full period, the next expected number, warned clear, and CLOSED, or OPEN at
once when the closed ticks are 0. -/
def LeaseParams.renew (l : LeaseParams) (lease : Lease) : Lease :=
  { phase := if l.closedTicks = 0 then .opened else .closed
    remaining := l.period
    expected := lease.expected + 1
    warned := false }

/-- A renewal with a number is taken at port `p` (R123 to R126): in FRESH and OPEN it is accepted when it carries the expected
number and is a SEQUENCE violation otherwise; in CLOSED it is an EARLY violation; at a port that is not ATTACHED it is ignored
and sets RENEW_IGNORED. -/
def State.takeRenewal (s : State) (p : PortId) (number : BitVec 8) : State :=
  match (s.port p).state with
  | .attached b => match b.lease.phase with
    | .fresh | .opened =>
      if number = b.lease.expected then
        s.modifyPort p fun r => { r with state := .attached { b with lease := r.params.renew b.lease } }
      else s.enterFenced p (some .sequence)
    | .closed => s.enterFenced p (some .early)
    | .frozen => s.modifyPort p ({ · with renewIgnored := true })
  | .detached | .stalled _ _ | .fenced => s.modifyPort p ({ · with renewIgnored := true })

/-- RENEWAL (R123): a write to the renewal word; bits 31 to 8 are ignored (R187). -/
def execRenewal (p : PortId) (value : Word) (s : State) : Outcome := .next (s.takeRenewal p (value.extractLsb' 0 8))

end Sys2Proof.Machine
end

