-- ==== Sys2Proof/Machine/Aperture.lean ====
section
/-! DEFINITION. The control aperture: POST, POP, FLAG_WORD_WRITE, ENABLE_WORD_WRITE, APERTURE_STATUS_WRITE and APERTURE_WRITE
(chapter 10), and what a master reads through the aperture (R169, R186 to R190). A read changes nothing and has no row in the
opcode table: it is the function `State.apertureRead` of the state. -/

namespace Sys2Proof.Machine

/-! ## Writes -/

/-- A write to the post word (R170): below four outstanding records the staging words join the command queue, otherwise the
command is lost and POST_REFUSED is set. The staging words keep their values. -/
def PortRec.post (r : PortRec) : PortRec :=
  if r.outstanding < Config.commandLimit then
    { r with commands := r.commands ++ [r.staging], outstanding := r.outstanding + 1 }
  else { r with postRefused := true }

/-- A write to the pop word (R176): the head completion record leaves the queue and the outstanding count falls; with an empty
queue nothing changes. -/
def PortRec.pop (r : PortRec) : PortRec :=
  match r.completions with
  | [] => r
  | _ :: rest => { r with completions := rest, outstanding := r.outstanding - 1 }

/-- A write to the aperture status word (R177): a 1 in bit 16 clears POST_REFUSED, a 1 in bit 17 clears RENEW_IGNORED (R187). -/
def PortRec.writeStatus (r : PortRec) (value : Word) : PortRec :=
  { r with
    postRefused := r.postRefused && !value.getLsbD 16
    renewIgnored := r.renewIgnored && !value.getLsbD 17 }

/-- A write to staging word `i` stores all 32 bits (R186). -/
def PortRec.stage (r : PortRec) (i : Fin 4) (value : Word) : PortRec := { r with staging := r.staging.set i value }

/-- An aperture write transfer (R169, R186): the low six bits of the address choose the word; a write narrower than a word, at
an offset that is not a multiple of 4, to an ignored word or to the unused offset changes nothing. -/
def State.apertureWrite (s : State) (p : PortId) (addr : Nat) (whole : Bool) (value : Word) : State :=
  if whole then
    match addr % 64 with
    | 0x00 => s.modifyPort p (·.stage 0 value)
    | 0x04 => s.modifyPort p (·.stage 1 value)
    | 0x08 => s.modifyPort p (·.stage 2 value)
    | 0x0C => s.modifyPort p (·.stage 3 value)
    | 0x10 => s.modifyPort p (·.post)
    | 0x14 => s.modifyPort p (·.pop)
    | 0x18 => s.takeRenewal p (value.extractLsb' 0 8)
    | 0x20 => s.modifyPort p (·.writeStatus value)
    | 0x24 => s.modifyPort p (·.writeFlags value)
    | 0x28 => s.modifyPort p (·.writeEnables value)
    | _ => s
  else s

/-- POST (R170): the post word acts on any write, whatever value is written (R186). -/
def execPost (p : PortId) (_value : Word) (s : State) : Outcome := .next (s.modifyPort p (·.post))

/-- POP (R176): the pop word acts on any write, whatever value is written (R186). -/
def execPop (p : PortId) (_value : Word) (s : State) : Outcome := .next (s.modifyPort p (·.pop))

/-- FLAG_WORD_WRITE (R181). -/
def execFlagWordWrite (p : PortId) (value : Word) (s : State) : Outcome := .next (s.modifyPort p (·.writeFlags value))

/-- ENABLE_WORD_WRITE (R182). -/
def execEnableWordWrite (p : PortId) (value : Word) (s : State) : Outcome :=
  .next (s.modifyPort p (·.writeEnables value))

/-- APERTURE_STATUS_WRITE (R177). -/
def execApertureStatusWrite (p : PortId) (value : Word) (s : State) : Outcome :=
  .next (s.modifyPort p (·.writeStatus value))

/-- APERTURE_WRITE (R169, R186). -/
def execApertureWrite (p : PortId) (addr : Nat) (whole : Bool) (value : Word) (s : State) : Outcome :=
  .next (s.apertureWrite p addr whole value)

/-! ## Reads -/

/-- A field of `width` bits at bit `lo` of a word, holding the low bits of `v`. -/
def field (lo width v : Nat) : Word := BitVec.ofNat 32 (v % 2 ^ width) <<< lo

/-- A one-bit field at bit `lo`. -/
def bitField (lo : Nat) (b : Bool) : Word := field lo 1 b.toNat

/-- The code of a lease phase in the lease status word (R187). -/
def Phase.code : Phase → Nat
  | .fresh => 1
  | .closed => 2
  | .opened => 3
  | .frozen => 4

/-- The lease status word (R125, R187): the running lease's fields read zero when there is none. -/
def PortRec.leaseStatusWord (r : PortRec) : Word :=
  bitField 12 r.renewIgnored |||
    match r.state.binding? with
    | none => 0
    | some b =>
      field 0 3 b.lease.phase.code ||| bitField 3 b.lease.warned ||| field 4 8 b.lease.expected.toNat |||
        field 16 16 b.lease.remaining

/-- The code of a port state in the aperture status word (R187). -/
def PortState.code : PortState → Nat
  | .detached => 0
  | .attached _ => 1
  | .stalled _ _ => 2
  | .fenced => 3

/-- The code of a role in the aperture status word (R187). -/
def Role.code : Role → Nat
  | .none => 0
  | .supervisor => 1
  | .standby => 2
  | .offered => 3
  | .standbyOffered => 4

/-- The aperture status word (R177, R187). -/
def PortRec.apertureStatusWord (r : PortRec) (role : Role) : Word :=
  field 0 3 r.outstanding ||| field 4 3 r.completions.length ||| field 8 2 r.state.code ||| field 10 3 role.code |||
    bitField 16 r.postRefused ||| bitField 17 r.renewIgnored

/-- The code of a status (R189). -/
def Status.code : Status → Nat
  | .ok => 0
  | .notSupervisor => 1
  | .badArgument => 2
  | .slotBusy => 3
  | .portBusy => 4
  | .queueFull => 5
  | .stale => 6
  | .aborted => 7
  | .failedMemory => 8
  | .badDescriptor => 9
  | .cancelled => 10
  | .noEffect => 11

/-- The code of an action (R188, R189). -/
def Action.code : Action → Nat
  | .retry => 0
  | .skip => 1
  | .fence => 2

/-- An entry as two fields of a completion word: frame at bit `lo`, rights above it (R189). -/
def Entry.fields (e : Entry) (lo : Nat) : Word := field lo 12 e.frame.toNat ||| field (lo + 12) 2 e.rights.code

/-- The waiting set in a CHECK_PAGE result: bit 14 + n for Pn (R189). -/
def waitingField (waiting : List PortId) : Word := waiting.foldl (fun w p => w ||| bitField (14 + p.val) true) 0

/-- The condition, boundary, commit issuer and waiting set in a CHECK_PAGE result (R189). -/
def Condition.word : Condition → Word
  | .clean => 0
  | .dirty => field 0 2 1
  | .sealed c =>
    field 0 2 2 ||| field 3 3 c.issuer.port.val ||| field 6 8 c.issuer.tag.toNat |||
      match c.boundary with
      | .drain => 0
      | .mark waiting => bitField 2 true ||| waitingField waiting

/-- The frame of a fault kind, where one was read (R139). -/
def FaultKind.frame : FaultKind → Option Frame
  | .noEntry => none
  | .writeDenied f => some f
  | .frameRange f => some f

/-- The code of a fault kind (R190). -/
def FaultKind.code : FaultKind → Nat
  | .noEntry => 0
  | .writeDenied _ => 1
  | .frameRange _ => 2

/-- The code of an access kind in a fault record (R190). -/
def accessKindCode : AccessKind → Nat
  | .read => 0
  | .write => 1

/-- The code of a lease kind (R190). -/
def LeaseKind.code : LeaseKind → Nat
  | .expired => 0
  | .early => 1
  | .sequence => 2

/-- Word 3 of a fault record as read (R190). -/
def FaultBody.word3 : FaultBody → Word
  | .access kind slot page acc _ =>
    field 0 12 ((kind.frame.map (·.toNat)).getD 0) ||| bitField 12 kind.frame.isSome ||| field 13 2 kind.code |||
      field 15 1 (accessKindCode acc) ||| field 16 4 slot.val ||| field 20 8 page.val
  | .lease kind loss =>
    field 0 2 kind.code |||
      match loss with
      | .kept => 0
      | .lost none => bitField 2 true
      | .lost (some p) => bitField 2 true ||| bitField 3 true ||| field 4 3 p.val

/-- The access tag of an ACCESS record, zero for a LEASE record (R190). -/
def FaultBody.tagNumber : FaultBody → Nat
  | .access _ _ _ _ tag => tag.toNat
  | .lease _ _ => 0

/-- Words 1 to 3 of a fault record as read (R190). -/
def FaultRecord.words (f : FaultRecord) : Word × Word × Word :=
  (bitField 31 true ||| field 0 16 f.seq.toNat ||| bitField 16 (!f.body.isAccess) ||| field 17 3 f.port.val |||
      field 20 8 f.body.tagNumber,
    f.stamp, f.body.word3)

/-- Words 1 to 3 of a completion that carries a result (R189, R190). -/
def Result.words : Result → Word × Word × Word
  | .pagesDone n => (field 0 9 n, 0, 0)
  | .abortedNumber n => (field 0 4 n, 0, 0)
  | .commit swapped => (bitField 0 swapped, 0, 0)
  | .action a => (field 0 2 a.code, 0, 0)
  | .page r =>
    (r.live.fields 0 ||| r.staged.fields 16, r.condition.word,
      field 0 4 r.jobs ||| bitField 4 r.running ||| field 5 3 r.binders ||| field 8 6 r.inFlight)
  | .fault none => (0, 0, 0)
  | .fault (some f) => f.words

/-- Word 0 of a completion record (R189). -/
def Completion.word0 (c : Completion) : Word :=
  field 0 8 c.tag.toNat ||| field 8 8 c.code.toNat ||| field 16 4 c.status.code ||| bitField 20 c.result.isSome |||
    bitField 31 true

/-- The four words of the completion window (R176, R189): all zero when the completion queue is empty. -/
def PortRec.window (r : PortRec) : Vector Word 4 :=
  match r.completions with
  | [] => #v[0, 0, 0, 0]
  | c :: _ => match c.result with
    | none => #v[c.word0, 0, 0, 0]
    | some x => #v[c.word0, x.words.1, x.words.2.1, x.words.2.2]

/-- An aperture read transfer (R169, R186): the word at the offset as it stands; zero for the post, pop, renewal and unused
words, for a read narrower than a word and for an offset that is not a multiple of 4. -/
def State.apertureRead (s : State) (p : PortId) (addr : Nat) (whole : Bool) : Word :=
  let r := s.port p
  if whole then
    match addr % 64 with
    | 0x00 => r.staging[0]
    | 0x04 => r.staging[1]
    | 0x08 => r.staging[2]
    | 0x0C => r.staging[3]
    | 0x1C => r.leaseStatusWord
    | 0x20 => r.apertureStatusWord (s.rights.role p)
    | 0x24 => r.flags.setWidth 32
    | 0x28 => r.enables.setWidth 32
    | 0x30 => r.window[0]
    | 0x34 => r.window[1]
    | 0x38 => r.window[2]
    | 0x3C => r.window[3]
    | _ => 0
  else 0

/-- Whether the interrupt line of a port is active (R182). -/
def State.interruptLine (s : State) (p : PortId) : Bool := (s.port p).interrupt

end Sys2Proof.Machine
end

