-- ==== Sys2Proof/Machine/Binding.lean ====
section
/-! DEFINITION. BIND and UNBIND (chapter 6). -/

namespace Sys2Proof.Machine

/-- BIND past the rights check (R105 to R107): a DETACHED port is bound and its lease starts; an ATTACHED port moves to another
slot with its lease as it was and leaves the old slot's waiting set, and a head access that a DRAIN seal of the old slot held is
translated through the new slot (R27). -/
def State.bind (s : State) (t : Taken) (port slot : Byte) : State :=
  match portOf port, slotOf slot with
  | some q, some n =>
    match (s.port q).state with
    | .stalled _ _ | .fenced => s.complete t .portBusy
    | .detached =>
      ((s.modifyPort q fun r => { r with state := .attached { slot := n, lease := r.params.start } }).raiseBinders n).complete
        t .ok
    | .attached b =>
      if b.slot = n then s.complete t .noEffect
      else
        (((((s.modifyPort q ({ · with state := .attached { b with slot := n } })).lowerBinders b.slot).raiseBinders
          n).leaveWaiting q b.slot).translateReleased q (s.slot b.slot).condition).complete t .ok
  | _, _ => s.complete t .badArgument

/-- BIND (R105). -/
def execBind (p : PortId) (s : State) : Outcome :=
  .next <| s.take p fun t c s => match c with
    | .bind port slot => some (s.supervisorOnly t (·.bind t port slot))
    | _ => none

/-- UNBIND past the rights check (R108). The UNBIND itself answers none of the port's untranslated accesses, a head access that a
DRAIN seal held included: each is answered ERR_NOMAP at its translation. -/
def State.unbind (s : State) (t : Taken) (port : Byte) : State :=
  match portOf port with
  | none => s.complete t .badArgument
  | some q =>
    match (s.port q).state with
    | .stalled _ _ => s.complete t .portBusy
    | .detached | .fenced => s.complete t .noEffect
    | .attached _ => (s.detach q .detached).complete t .ok

/-- UNBIND (R108). -/
def execUnbind (p : PortId) (s : State) : Outcome :=
  .next <| s.take p fun t c s => match c with
    | .unbind port => some (s.supervisorOnly t (·.unbind t port))
    | _ => none

end Sys2Proof.Machine
end

