-- ==== Sys2Proof/Machine/Commit.lean ====
section
/-! DEFINITION. COMMIT, CANCEL_COMMIT and SYNC (chapter 5). The swap at a MARK boundary is in Machine/Ops.lean,
that at a DRAIN boundary in Machine/Translation.lean. -/

namespace Sys2Proof.Machine

/-- The boundary a code names, with the waiting set formed for MARK: every ATTACHED port whose binding names the slot (R85,
R188). -/
def State.boundaryOf (s : State) (n : SlotId) (code : BitVec 2) : Option Boundary :=
  match code.toNat with
  | 0 => some .drain
  | 1 => some (.mark (s.attachedTo n))
  | _ => none

/-- The pending commit that a COMMIT makes (R80, R82): its issuer is the port and tag it was taken with, its completion is
owed. -/
def newCommit (t : Taken) (b : Boundary) : PendingCommit :=
  { boundary := b, issuer := { port := t.port, tag := t.tag }, owed := true }

/-- COMMIT past the rights check (R81, R82): the tests in order; a DIRTY slot is sealed and the boundary tested at once. A COMMIT
that seals completes at its swap or its cancellation. -/
def State.commit (s : State) (t : Taken) (slot : Byte) (boundary : BitVec 2) (first : List PortId) : State :=
  match slotOf slot with
  | none => s.complete t .badArgument
  | some n =>
    match s.boundaryOf n boundary with
    | none => s.complete t .badArgument
    | some b =>
      match (s.slot n).condition with
      | .sealed _ => s.complete t .slotBusy
      | .clean => if s.loadHeld n then s.complete t .slotBusy else s.complete t .ok (some (.commit false))
      | .dirty =>
        if s.loadHeld n then s.complete t .slotBusy
        else
          (s.modifySlot n fun m => { m with condition := .sealed (newCommit t b) }).testBoundary n first

/-- COMMIT (R81). -/
def execCommit (p : PortId) (s : State) (first : List PortId := []) : Outcome :=
  .next <| s.take p fun t c s => match c with
    | .commit slot boundary => some (s.supervisorOnly t (·.commit t slot boundary first))
    | _ => none

/-- The unsealing of a SEALED slot whose pending commit was `c` (R91): it becomes DIRTY; the hold of a DRAIN seal ends, and the
head accesses it held are translated through the unchanged live image; an owed completion CANCELLED joins the issuer's queue. -/
def State.unseal (s : State) (n : SlotId) (c : PendingCommit) (first : List PortId) : State :=
  let t := s.modifySlot n fun m => { m with condition := .dirty }
  (match c.boundary with
    | .drain => t.release n first
    | .mark _ => t).completeCommit c .cancelled none

/-- CANCEL_COMMIT past the rights check (R91): a SEALED slot is unsealed, and the command's own OK comes after it. -/
def State.cancelCommit (s : State) (t : Taken) (slot : Byte) (first : List PortId) : State :=
  match slotOf slot with
  | none => s.complete t .badArgument
  | some n =>
    match (s.slot n).condition with
    | .sealed c => (s.unseal n c first).complete t .ok
    | .clean | .dirty => s.complete t .stale

/-- CANCEL_COMMIT (R91). -/
def execCancelCommit (p : PortId) (s : State) (first : List PortId := []) : Outcome :=
  .next <| s.take p fun t c s => match c with
    | .cancelCommit slot => some (s.supervisorOnly t (·.cancelCommit t slot first))
    | _ => none

/-- SYNC (R88): a member of the waiting set of its bound slot leaves it, and the swap follows if the set is now empty; any other
port completes NO_EFFECT. -/
def State.sync (s : State) (t : Taken) : State :=
  match (s.port t.port).state.boundSlot? with
  | none => s.complete t .noEffect
  | some n =>
    if t.port ∈ (s.slot n).condition.waiting then (s.leaveWaiting t.port n).complete t .ok
    else s.complete t .noEffect

/-- SYNC (R88). -/
def execSync (p : PortId) (s : State) : Outcome :=
  .next <| s.take p fun t c s => match c with
    | .sync => some (s.sync t)
    | _ => none

end Sys2Proof.Machine
end

