-- ==== Sys2Proof/Machine/Fencing.lean ====
section
/-! DEFINITION. SET_LEASE, FENCE and UNFENCE (chapter 7). Entering FENCED is in Machine/Ops.lean. -/

namespace Sys2Proof.Machine

/-- SET_LEASE past the rights check (R129). -/
def State.setLease (s : State) (t : Taken) (port : Byte) (fraction : BitVec 2) (period : BitVec 16) : State :=
  match portOf port, fractionOf fraction with
  | some q, some f =>
    if Config.minPeriod ≤ period.toNat && period.toNat ≤ Config.maxPeriod then
      if (s.port q).state.isBound then s.complete t .portBusy
      else (s.modifyPort q ({ · with params := { period := period.toNat, fraction := f } })).complete t .ok
    else s.complete t .badArgument
  | _, _ => s.complete t .badArgument

/-- SET_LEASE (R129). -/
def execSetLease (p : PortId) (s : State) : Outcome :=
  .next <| s.take p fun t c s => match c with
    | .setLease port fraction period => some (s.supervisorOnly t (·.setLease t port fraction period))
    | _ => none

/-- FENCE past the rights check (R130): any port not yet FENCED enters FENCED without a LEASE record; a STALLED one as by RESOLVE
with FENCE, but the command carries no result. -/
def State.fence (s : State) (t : Taken) (port : Byte) : State :=
  match portOf port with
  | none => s.complete t .badArgument
  | some q =>
    if (s.port q).state.isFenced then s.complete t .noEffect
    else (s.enterFenced q none).complete t .ok

/-- FENCE (R130). -/
def execFence (p : PortId) (s : State) : Outcome :=
  .next <| s.take p fun t c s => match c with
    | .fence port => some (s.supervisorOnly t (·.fence t port))
    | _ => none

/-- UNFENCE past the rights check (R131): a FENCED port becomes DETACHED and its LEASE record retires. -/
def State.unfence (s : State) (t : Taken) (port : Byte) : State :=
  match portOf port with
  | none => s.complete t .badArgument
  | some q =>
    if (s.port q).state.isFenced then
      ((s.retireLease q).modifyPort q ({ · with state := .detached })).complete t .ok
    else s.complete t .noEffect

/-- UNFENCE (R131). -/
def execUnfence (p : PortId) (s : State) : Outcome :=
  .next <| s.take p fun t c s => match c with
    | .unfence port => some (s.supervisorOnly t (·.unfence t port))
    | _ => none

end Sys2Proof.Machine
end

