-- ==== Sys2Proof/Machine/Loading.lean ====
section
/-! DEFINITION. LOAD and ABORT_LOAD (chapter 4). The course of a job is in Machine/Ops.lean (memory answers) and
Machine/MemoryPort.lean (the grant of its read). -/

namespace Sys2Proof.Machine

/-- The argument ranges of a LOAD (R62): the run lies within the 256 pages, the address is a multiple of 4, and the whole array
lies within MEMSIZE. -/
def loadRange (memsize first count addr : Nat) : Bool :=
  1 ≤ count && count ≤ 256 && first + count ≤ 256 && addr % 4 = 0 && addr + 4 * count ≤ memsize * Config.pageBytes

/-- The job of an accepted LOAD (R63). -/
def acceptedJob (t : Taken) (n : SlotId) (first : Byte) (count : BitVec 9) (addr : BitVec 24) : Job :=
  { slot := n, first := pageOf first, count := count.toNat, addr := addr, issuer := { port := t.port, tag := t.tag },
    owed := true, state := .queued }

/-- LOAD past the rights check (R62, R63): the tests in order, then the job joins the tail of the load queue, and starts at once
when it is at the head. An accepted LOAD does not complete here. -/
def State.load (s : State) (t : Taken) (slot first : Byte) (count : BitVec 9) (addr : BitVec 24) : State :=
  match slotOf slot with
  | none => s.complete t .badArgument
  | some n =>
    if loadRange s.memsize first.toNat count.toNat addr.toNat then
      if (s.slot n).condition.isSealed then s.complete t .slotBusy
      else if Config.loadPlaces ≤ s.jobs.length then s.complete t .queueFull
      else { s with jobs := startHead (s.jobs ++ [acceptedJob t n first count addr]) }
    else s.complete t .badArgument

/-- LOAD (R62). -/
def execLoad (p : PortId) (s : State) : Outcome :=
  .next <| s.take p fun t c s => match c with
    | .load slot first count addr => some (s.supervisorOnly t (·.load t slot first count addr))
    | _ => none

/-- What an ABORT_LOAD does with one job that names its slot (R72). -/
inductive AbortStep where
  /-- The job ends ABORTED with this number of pages done. -/
  | ends (pagesDone : Nat)
  /-- The job receives the abort mark and stays. -/
  | marks (j : Job)
  /-- The job carries the abort mark already. -/
  | passes
deriving DecidableEq, Repr

/-- What an ABORT_LOAD does with a job by its state (R72). -/
def Job.abortStep (j : Job) : AbortStep :=
  match j.state with
  | .queued => .ends 0
  | .running done .requested => .ends done
  | .running done (.outstanding false) => .marks { j with state := .running done (.outstanding true) }
  | .running _ (.outstanding true) => .passes

/-- The outcome of an ABORT_LOAD over the load queue (R72): the jobs that stay, those that end with their pages done, in queue
order, and the number of jobs taken. -/
structure AbortSweep where
  stay : List Job
  ended : List (Job × Nat)
  taken : Nat
deriving DecidableEq, Repr

/-- An ABORT_LOAD goes through the load queue in order (R72). -/
def abortSweep (n : SlotId) : List Job → AbortSweep
  | [] => { stay := [], ended := [], taken := 0 }
  | j :: rest =>
    let w := abortSweep n rest
    if j.slot = n then
      match j.abortStep with
      | .ends done => { w with ended := (j, done) :: w.ended, taken := w.taken + 1 }
      | .marks k => { w with stay := k :: w.stay, taken := w.taken + 1 }
      | .passes => { w with stay := j :: w.stay }
    else { w with stay := j :: w.stay }

/-- The ABORTED completions of ended jobs join their issuers' queues in queue order, where owed (R71, R72). -/
def State.completeAborted (s : State) : List (Job × Nat) → State
  | [] => s
  | (j, done) :: rest => (s.completeJob j .aborted done).completeAborted rest

/-- ABORT_LOAD past the rights check (R72): the ended jobs' ABORTED completions in queue order, then its own. When the RUNNING
job ends, the job then at the head starts (R71). -/
def State.abortLoad (s : State) (t : Taken) (slot : Byte) : State :=
  match slotOf slot with
  | none => s.complete t .badArgument
  | some n =>
    if (abortSweep n s.jobs).taken = 0 then s.complete t .noEffect
    else
      (State.completeAborted { s with jobs := startHead (abortSweep n s.jobs).stay }
        (abortSweep n s.jobs).ended).complete t .ok (some (.abortedNumber (abortSweep n s.jobs).taken))

/-- ABORT_LOAD (R72). -/
def execAbortLoad (p : PortId) (s : State) : Outcome :=
  .next <| s.take p fun t c s => match c with
    | .abortLoad slot => some (s.supervisorOnly t (·.abortLoad t slot))
    | _ => none

end Sys2Proof.Machine
end

