-- ==== Sys2Proof/Machine/MemoryPort.lean ====
section
/-! DEFINITION. The memory port: GRANT, MEMORY_ANSWER_ACCESS and MEMORY_ANSWER_DESCRIPTOR (chapter 3). -/

namespace Sys2Proof.Machine

/-! ## Grants -/

/-- The master port a requester of the arbiter is: requesters 0 to 5 are P0 to P5, requester 6 is the load engine (R49). -/
def requesterPort (q : Fin 7) : Option PortId := if h : q.val < 6 then some ⟨q.val, h⟩ else none

/-- Whether a requester is ready (R47, R48): a port whose issue queue is not empty, the load engine while it presents a read
request. -/
def State.ready (s : State) (q : Fin 7) : Bool :=
  match requesterPort q with
  | some p => !s.mem.issue[p].isEmpty
  | none => s.readRequest.isSome

/-- The first ready requester in cyclic order, starting at the round-robin position (R49). -/
def State.nextRequester (s : State) : Option (Fin 7) :=
  ((List.finRange 7).map (s.mem.position + ·)).find? s.ready

/-- The lowest transaction number not in use in the outstanding set (R50). -/
def MemPort.freeNumber (m : MemPort) : Option TxnId :=
  (List.finRange 16).find? fun n => m.entries.all (·.number ≠ n)

/-- A granted transaction enters the outstanding set with the reset generation, is sent to memory, and the round-robin position
moves to the requester after the granted one (R49, R50). -/
def State.send (s : State) (q : Fin 7) (number : TxnId) (requester : Requester) (kind : AccessKind) (addr : BitVec 24)
    (beats : Nat) (data : List Byte) : State :=
  { s with
    mem := { s.mem with
      entries := s.mem.entries ++
        [{ number := number, generation := s.mem.generation, requester := requester, kind := kind, beats := beats }]
      position := q + 1 }
    sent := s.sent ++
      [{ number := number, generation := s.mem.generation, kind := kind, addr := addr, beats := beats, data := data }] }

/-- A grant to a master port takes the head of its issue queue (R47, R50). -/
def State.grantPort (s : State) (q : Fin 7) (p : PortId) (number : TxnId) : State :=
  match s.mem.issue[p] with
  | [] => s
  | t :: rest =>
    State.send { s with mem := { s.mem with issue := s.mem.issue.set p rest } } q number (.port p t.access t.through)
      t.kind t.addr t.beats t.data

/-- A grant to the load engine takes its read request, a READ of one beat, and the RUNNING job's read becomes OUTSTANDING
(R48, R50, R65). -/
def State.grantLoad (s : State) (q : Fin 7) (number : TxnId) : State :=
  match s.jobs with
  | [] => s
  | j :: rest => match j.state with
    | .running done .requested =>
      State.send { s with jobs := { j with state := .running done (.outstanding false) } :: rest } q number .loadEngine
        .read (j.wordAddress done) 1 []
    | .running _ (.outstanding _) | .queued => s

/-- GRANT (R49, R50): when a requester is ready, fewer than 16 transactions are outstanding and memory is accepting one
(`able`), the first ready requester is granted. Otherwise no grant is made. -/
def execGrant (able : Bool) (s : State) : Outcome :=
  if able && s.mem.entries.length < Config.transactionLimit then
    match s.nextRequester, s.mem.freeNumber with
    | some q, some number =>
      match requesterPort q with
      | some p => .next (s.grantPort q p number)
      | none => .next (s.grantLoad q number)
    | _, _ => .next s
  else .next s

/-! ## Memory answers -/

/-- Removes the first entry that has this transaction number. -/
def MemPort.removeEntry (m : MemPort) (number : TxnId) : MemPort :=
  { m with entries := m.entries.eraseP (·.number = number) }

/-- The in-flight count of a slot falls by one (R7), and a DRAIN boundary reached by that brings the swap (R83). -/
def State.lowerInFlight (s : State) (n : SlotId) (first : List PortId) : State :=
  (s.modifySlot n fun m => { m with inFlight := m.inFlight - 1 }).testBoundary n first

/-- The response memory's answer makes in an access slot (R38, R53): OK with the read data of a READ, or ERR_MEMORY. -/
def memoryResponse (a : Access) (outcome : MemOutcome) (data : List Byte) : Response :=
  match outcome with
  | .error => { tag := a.tag, kind := .errMemory, data := [] }
  | .success => { tag := a.tag, kind := .ok, data := match a.kind with | .read => data | .write => [] }

/-- An answer reaches an access slot (R38, R39): an unmarked ISSUED slot becomes ANSWERED; a slot marked for discard drops the
answer and becomes free, and a request held off on the port's request channel is then accepted (R22). -/
def PortRec.placeAnswer (r : PortRec) (k : AccId) (outcome : MemOutcome) (data : List Byte) : PortRec :=
  match r.slots[k] with
  | some { access := a, state := .issued through false } =>
    { r with
      slots := r.slots.set k
        (some { access := a, state := .answered (memoryResponse a outcome data) (some through) }) }
  | some { access := _, state := .issued _ true } => PortRec.acceptHeld { r with slots := r.slots.set k none }
  | _ => r

/-- Memory answers a transaction of a master port (R53): the in-flight count of the slot translated through falls, and the
answer is placed in the access slot. The boundary that the fall reaches is tested after it (R83). R53 and R83 put the placing
and a swap both after the fall and do not order the two: here the answer is placed or dropped first, a request held off is
accepted into a slot so freed (R22), and the swap and the translation of released head accesses follow, so that an access just
accepted may be among them. DESIGN CHOICE, notes/assumptions/17.md. -/
def State.answerPort (s : State) (p : PortId) (k : AccId) (through : SlotId) (outcome : MemOutcome) (data : List Byte)
    (first : List PortId) : State :=
  (s.modifyPort p (·.placeAnswer k outcome data)).lowerInFlight through first

/-- The RUNNING job ends (R71): it leaves the queue, its completion joins if owed, and the next job starts. -/
def State.endRunning (s : State) (status : Status) (done : Nat) : State :=
  match s.jobs with
  | [] => s
  | j :: rest => State.completeJob { s with jobs := startHead rest } j status done

/-- The RUNNING job `j`, ahead of `rest`, has `done` pages done after a well-formed word (R65): it ends DONE when that was the
last page (R67), else it presents its next read. -/
def State.pageDone (s : State) (j : Job) (rest : List Job) (done : Nat) : State :=
  if j.count ≤ done then s.endRunning .ok done
  else { s with jobs := { j with state := .running done .requested } :: rest }

/-- Memory answers the read of the load engine (R54, R65 to R69, R73): a marked job ends ABORTED; otherwise ERROR ends it
FAILED_MEMORY, a malformed word BAD_DESCRIPTOR, and a well-formed word is written or kept and either ends the job DONE or has
it present its next read. -/
def State.answerLoad (s : State) (outcome : MemOutcome) (data : List Byte) : State :=
  match s.jobs with
  | [] => s
  | j :: rest => match j.state with
    | .running done (.outstanding true) => s.endRunning .aborted done
    | .running done (.outstanding false) => match outcome with
      | .error => s.endRunning .failedMemory done
      | .success => match descriptorOf (wordOfBytes data) with
        | .malformed => s.endRunning .badDescriptor done
        | d => (s.descriptorWrite j.slot (j.page done) d).pageDone j rest (done + 1)
    | .running _ .requested | .queued => s

/-- The answer goes where the requester of its entry says (R53, R54). -/
def State.answerEntry (s : State) (requester : Requester) (outcome : MemOutcome) (data : List Byte)
    (first : List PortId) : State :=
  match requester with
  | .port p k through => s.answerPort p k through outcome data first
  | .loadEngine => s.answerLoad outcome data

/-- Memory answers (R52 to R55). An answer is that of an entry when its generation is the reset generation and its number is
in use; the entry is removed and the answer goes where the entry's requester says. Any other answer is ignored. The head
accesses that a swap brought by the answer releases are translated in the order of `first`. -/
def State.memoryAnswer (s : State) (a : MemAnswer) (first : List PortId) : State :=
  if a.generation = s.mem.generation then
    match s.mem.entries.find? (·.number = a.number) with
    | some e => State.answerEntry { s with mem := s.mem.removeEntry a.number } e.requester a.outcome a.data first
    | none => s
  else s

/-- MEMORY_ANSWER_ACCESS (R53, R55): an answer of memory, which the hub routes by the entry it matches. -/
def execMemoryAnswerAccess (a : MemAnswer) (s : State) (first : List PortId := []) : Outcome :=
  .next (s.memoryAnswer a first)

/-- MEMORY_ANSWER_DESCRIPTOR (R54, R55): an answer of memory, which the hub routes by the entry it matches. -/
def execMemoryAnswerDescriptor (a : MemAnswer) (s : State) (first : List PortId := []) : Outcome :=
  .next (s.memoryAnswer a first)

end Sys2Proof.Machine
end

