-- ==== Sys2Proof/Machine/Resets.lean ====
section
/-! DEFINITION. PORT_RESET (R111 to R116), DEVICE_RESET (R19, R59, R79, R118, R156, R168, R185) and POWER_UP (R46). -/

namespace Sys2Proof.Machine

/-- Part 1 of a port reset at the port's own aperture (R112, R184). -/
def PortRec.emptyControl (r : PortRec) : PortRec :=
  { r with
    staging := Vector.replicate 4 0, commands := [], completions := [], outstanding := 0, postRefused := false
    renewIgnored := false }

/-- The completion of a commit that port `p` issued is owed no longer (R98). -/
def Condition.disown (c : Condition) (p : PortId) : Condition :=
  match c with
  | .sealed d => .sealed (if d.issuer.port = p then { d with owed := false } else d)
  | .clean | .dirty => c

/-- The completion of a job that port `p` issued is owed no longer (R75). -/
def Job.disown (j : Job) (p : PortId) : Job := if j.issuer.port = p then { j with owed := false } else j

/-- Part 1 of a port reset at the load queue and commit control: nothing that `p` issued is owed a completion (R112). -/
def State.disown (s : State) (p : PortId) : State :=
  { s with
    jobs := s.jobs.map (·.disown p)
    slots := Vector.ofFn fun n => { s.slots[n] with condition := s.slots[n].condition.disown p } }

/-- Part 2 of a port reset (R113): UNTRANSLATED, STALLED and ANSWERED slots are free, ISSUED ones are marked for discard, and no
slot is left in the arrival order. -/
def PortRec.emptyAccesses (r : PortRec) : PortRec :=
  { (r.mapSlots fun a => match a.state with
      | .issued n _ => some { a with state := .issued n true }
      | .untranslated | .stalled | .answered _ _ => none) with
    arrival := [] }

/-- Part 3 of a port reset (R114): an ATTACHED or STALLED port becomes DETACHED with the effects of R109, and an ACCESS record of
it retires; a DETACHED or FENCED port stays as it is. -/
def State.resetState (s : State) (p : PortId) : State :=
  match (s.port p).state with
  | .attached _ | .stalled _ _ => (s.retireAccess p).detach p .detached
  | .detached | .fenced => s

/-- Part 5 of a port reset (R115). -/
def PortRec.clearFlags (r : PortRec) : PortRec := { r with flags := 0, enables := 0 }

/-- PORT_RESET (R111): the five parts in order. A request held off on the port's request channel is accepted after the reset, as
soon as a slot is free (R22, R44). -/
def execPortReset (p : PortId) (s : State) : Outcome :=
  .next <|
    ((((((s.modifyPort p (·.emptyControl)).disown p).modifyPort p (·.emptyAccesses)).resetState p).endRoles p).modifyPort p
      (·.clearFlags)).modifyPort p (·.acceptHeld)

/-- The hub in its device-reset state with the reset generation advanced by one (R59). What stands outside the hub stays: the
requests on the ports' request channels, what has left the hub, and the commands to come. -/
def State.deviceReset (s : State) : State :=
  { State.reset with
    ports := Vector.ofFn fun p => { PortRec.reset with requests := s.ports[p].requests }
    mem := { MemPort.reset with generation := s.mem.generation + 1 }
    sent := s.sent, delivered := s.delivered, pending := s.pending }

/-- Every port accepts what its request channel holds, as far as it has free slots (R22). -/
def State.acceptAll (s : State) : State := { s with ports := Vector.ofFn fun p => s.ports[p].acceptHeld }

/-- DEVICE_RESET: the reset, then the first moment after it, at which requests held off on the request channels find free
slots (R22, R24). -/
def execDeviceReset (s : State) : Outcome := .next s.deviceReset.acceptAll

/-- POWER_UP (R46): every piece of state at its device-reset value, the reset generation 0. The commands to come stay. -/
def execPowerUp (s : State) : Outcome := .next { State.reset with pending := s.pending }

end Sys2Proof.Machine
end

