-- ==== Sys2Proof/Machine/Resolve.lean ====
section
/-! DEFINITION. RESOLVE with its three actions, and READ_FAULT (chapter 8). The three rows RESOLVE_RETRY, RESOLVE_SKIP and
RESOLVE_FENCE take the records of one command, RESOLVE, by their action; a record whose action is none of the three completes
BAD_ARGUMENT in whichever of the rows takes it. -/

namespace Sys2Proof.Machine

/-- The port a RESOLVE acts on (R147): the one named by the ACCESS record that holds the sequence number. -/
def State.resolvePort (s : State) (seq : BitVec 16) : Option PortId :=
  (s.faults.find? fun r => r.body.isAccess && r.seq = seq).map (·.port)

/-- RESOLVE past the rights check (R147 to R150): an action code that names no action completes BAD_ARGUMENT, a sequence number
that no ACCESS record holds completes STALE, and otherwise the action `a` is carried out by `act` on the port of the record. -/
def State.resolve (s : State) (t : Taken) (seq : BitVec 16) (action : BitVec 2) (a : Action)
    (act : State → PortId → State) : State :=
  match actionOf action with
  | none => s.complete t .badArgument
  | some _ => match s.resolvePort seq with
    | none => s.complete t .stale
    | some q => (act s q).complete t .ok (some (.action a))

/-- Whether the row of action `a` takes a RESOLVE with this action code: its own, or one that names no action. -/
def takesAction (a : Action) (code : BitVec 2) : Bool :=
  match actionOf code with
  | some b => a = b
  | none => true

/-- RETRY (R148): the stalled access is UNTRANSLATED again, with its arrival position and write data, and is translated as the
port's head access (R27, R94). -/
def State.retry (s : State) (q : PortId) : State := (s.endStall q ({ · with state := .untranslated })).translateHead q

/-- RESOLVE_RETRY (R148). -/
def execResolveRetry (p : PortId) (s : State) : Outcome :=
  .next <| s.take p fun t c s => match c with
    | .resolve seq action =>
      if takesAction .retry action then some (s.supervisorOnly t (·.resolve t seq action .retry State.retry)) else none
    | _ => none

/-- SKIP (R149): the stalled access is answered ERR_DENIED, and the port's next head access is translated (R27). -/
def State.skip (s : State) (q : PortId) : State := (s.endStall q (·.answer .errDenied)).translateHead q

/-- RESOLVE_SKIP (R149). -/
def execResolveSkip (p : PortId) (s : State) : Outcome :=
  .next <| s.take p fun t c s => match c with
    | .resolve seq action =>
      if takesAction .skip action then some (s.supervisorOnly t (·.resolve t seq action .skip State.skip)) else none
    | _ => none

/-- RESOLVE_FENCE (R150). -/
def execResolveFence (p : PortId) (s : State) : Outcome :=
  .next <| s.take p fun t c s => match c with
    | .resolve seq action =>
      if takesAction .fence action then
        some (s.supervisorOnly t (·.resolve t seq action .fence fun s q => s.enterFenced q none))
      else none
    | _ => none

/-- READ_FAULT past the rights check (R146): the record at position `k`, or NONE. -/
def State.readFault (s : State) (t : Taken) (k : Byte) : State :=
  if k.toNat < Config.faultPlaces then s.complete t .ok (some (.fault s.faults[k.toNat]?))
  else s.complete t .badArgument

/-- READ_FAULT (R146). -/
def execReadFault (p : PortId) (s : State) : Outcome :=
  .next <| s.take p fun t c s => match c with
    | .readFault k => some (s.supervisorOnly t (·.readFault t k))
    | _ => none

end Sys2Proof.Machine
end

