-- ==== Sys2Proof/Machine/Store.lean ====
section
/-! DEFINITION. The commands on the map store: PUT_ENTRY, DISCARD, CLEAR and CHECK_PAGE (chapter 1), and UNKNOWN_COMMAND
(R173). -/

namespace Sys2Proof.Machine

/-- The tests of R10 after the argument ranges: a SEALED slot and a load-held slot complete SLOT_BUSY. -/
def State.unlessBusy (s : State) (t : Taken) (n : SlotId) (carryOut : State) : State :=
  if (s.slot n).condition.isSealed || s.loadHeld n then s.complete t .slotBusy else carryOut

/-- PUT_ENTRY past the rights check (R10, R11). -/
def State.putEntry (s : State) (t : Taken) (slot page : Byte) (frame : Frame) (rights : BitVec 2) : State :=
  match slotOf slot, rightsOf rights with
  | some n, some g =>
    s.unlessBusy t n <|
      (s.modifySlot n fun m =>
        { m with staged := m.staged.set (pageOf page) { frame := frame, rights := g }, condition := .dirty }).complete t .ok
  | _, _ => s.complete t .badArgument

/-- PUT_ENTRY (R11). -/
def execPutEntry (p : PortId) (s : State) : Outcome :=
  .next <| s.take p fun t c s => match c with
    | .putEntry slot page frame rights => some (s.supervisorOnly t (·.putEntry t slot page frame rights))
    | _ => none

/-- DISCARD past the rights check (R10, R12): a slot that is CLEAN already completes NO_EFFECT. -/
def State.discard (s : State) (t : Taken) (slot : Byte) : State :=
  match slotOf slot with
  | some n =>
    s.unlessBusy t n <|
      if (s.slot n).condition = .clean then s.complete t .noEffect
      else (s.modifySlot n fun m => { m with staged := m.live, condition := .clean }).complete t .ok
  | none => s.complete t .badArgument

/-- DISCARD (R12). -/
def execDiscard (p : PortId) (s : State) : Outcome :=
  .next <| s.take p fun t c s => match c with
    | .discard slot => some (s.supervisorOnly t (·.discard t slot))
    | _ => none

/-- CLEAR past the rights check (R10, R13). -/
def State.clear (s : State) (t : Taken) (slot : Byte) : State :=
  match slotOf slot with
  | some n =>
    s.unlessBusy t n <|
      (s.modifySlot n fun m => { m with staged := Image.empty, condition := .dirty }).complete t .ok
  | none => s.complete t .badArgument

/-- CLEAR (R13). -/
def execClear (p : PortId) (s : State) : Outcome :=
  .next <| s.take p fun t c s => match c with
    | .clear slot => some (s.supervisorOnly t (·.clear t slot))
    | _ => none

/-- Whether the RUNNING job names a slot (R17): the head of the load queue, the only RUNNING one (R60). -/
def State.runningNames (s : State) (n : SlotId) : Bool :=
  match s.jobs with
  | [] => false
  | j :: _ => decide (j.state ≠ .queued) && j.slot = n

/-- The result of a CHECK_PAGE (R17). -/
def State.pageReport (s : State) (n : SlotId) (page : Page) : PageReport :=
  { live := (s.slot n).live[page], staged := (s.slot n).staged[page], condition := (s.slot n).condition
    jobs := s.jobCount n, running := s.runningNames n, binders := (s.slot n).binders, inFlight := (s.slot n).inFlight }

/-- CHECK_PAGE (R16): a port without supervisor rights may name only the slot its own binding names. -/
def State.checkPage (s : State) (t : Taken) (slot page : Byte) : State :=
  match slotOf slot with
  | some n =>
    if s.rights.isSupervisor t.port || (s.port t.port).state.boundSlot? = some n then
      s.complete t .ok (some (.page (s.pageReport n (pageOf page))))
    else s.complete t .notSupervisor
  | none => s.complete t .badArgument

/-- CHECK_PAGE (R16, R17). -/
def execCheckPage (p : PortId) (s : State) : Outcome :=
  .next <| s.take p fun t c s => match c with
    | .checkPage slot page => some (s.checkPage t slot page)
    | _ => none

/-- UNKNOWN_COMMAND (R173): a record whose code names no command completes BAD_ARGUMENT, with the code as written, without a
rights check. -/
def execUnknownCommand (p : PortId) (s : State) : Outcome :=
  .next <| s.take p fun t c s => match c with
    | .unknown => some (s.complete t .badArgument)
    | _ => none

end Sys2Proof.Machine
end

