-- ==== Sys2Proof/Machine/Supervisor.lean ====
section
/-! DEFINITION. SET_STANDBY, HANDOVER, ACCEPT and CLAIM (chapter 9), and CONFIGURE (R178). Succession and the ROLE flags are in
Machine/Ops.lean. -/

namespace Sys2Proof.Machine

/-- The standby a SET_STANDBY names: a port, or none for 0xFF (R162, R188); the outer `none` is a value outside both. -/
def standbyOf (b : Byte) : Option (Option PortId) :=
  if b = 0xFF then some none else (portOf b).map some

/-- SET_STANDBY past the rights check (R162). -/
def State.setStandby (s : State) (t : Taken) (port : Byte) : State :=
  match standbyOf port with
  | none => s.complete t .badArgument
  | some b =>
    if b.any (s.rights.isSupervisor ·) then s.complete t .badArgument
    else if b.any fun q => (s.port q).state.isFenced then s.complete t .portBusy
    else if b = s.rights.standby then s.complete t .noEffect
    else (s.moveRights { s.rights with standby := b }).complete t .ok

/-- SET_STANDBY (R162). -/
def execSetStandby (p : PortId) (s : State) : Outcome :=
  .next <| s.take p fun t c s => match c with
    | .setStandby port => some (s.supervisorOnly t (·.setStandby t port))
    | _ => none

/-- HANDOVER past the rights check (R160). -/
def State.handover (s : State) (t : Taken) (port : Byte) : State :=
  match portOf port with
  | none => s.complete t .badArgument
  | some q =>
    if s.rights.isSupervisor q || (s.port q).state.isFenced then s.complete t .badArgument
    else if s.rights.offer = some q then s.complete t .noEffect
    else (s.moveRights { s.rights with offer := some q }).complete t .ok

/-- HANDOVER (R160). -/
def execHandover (p : PortId) (s : State) : Outcome :=
  .next <| s.take p fun t c s => match c with
    | .handover port => some (s.supervisorOnly t (·.handover t port))
    | _ => none

/-- The standby once `p` has become supervisor: a port that was the standby is it no longer (R161, R165). -/
def Holdings.standbyWithout (h : Holdings) (p : PortId) : Option PortId :=
  if h.standby = some p then none else h.standby

/-- ACCEPT (R161): rights move to the OFFERED port. -/
def State.accept (s : State) (t : Taken) : State :=
  if s.rights.offer = some t.port then
    (s.moveRights
      { supervisor := some (t.port, .handover), standby := s.rights.standbyWithout t.port, offer := none }).complete t .ok
  else s.complete t .stale

/-- ACCEPT (R161). -/
def execAccept (p : PortId) (s : State) : Outcome :=
  .next <| s.take p fun t c s => match c with
    | .accept => some (s.accept t)
    | _ => none

/-- CLAIM (R165): an ATTACHED port takes rights that no port holds. -/
def State.claim (s : State) (t : Taken) : State :=
  match s.rights.supervisor with
  | some (_, origin) => if origin = .claim then s.complete t .stale else s.complete t .notSupervisor
  | none =>
    if (s.port t.port).state.isAttached then
      (s.moveRights
        { s.rights with supervisor := some (t.port, .claim), standby := s.rights.standbyWithout t.port }).complete t .ok
    else s.complete t .portBusy

/-- CLAIM (R165). -/
def execClaim (p : PortId) (s : State) : Outcome :=
  .next <| s.take p fun t c s => match c with
    | .claim => some (s.claim t)
    | _ => none

/-- The ranges of CONFIGURE (R178). -/
def configureRange (memsize stallLimit : Nat) : Bool :=
  1 ≤ memsize && memsize ≤ Config.maxMemsize &&
    (stallLimit = 0 || (Config.minStallLimit ≤ stallLimit && stallLimit ≤ Config.maxStallLimit))

/-- Whether some port is ATTACHED or STALLED (R178). -/
def State.anyBound (s : State) : Bool := (List.finRange 6).any fun q => (s.port q).state.isBound

/-- CONFIGURE past the rights check (R178). -/
def State.configure (s : State) (t : Taken) (memsize : BitVec 13) (stallLimit : BitVec 16) : State :=
  if configureRange memsize.toNat stallLimit.toNat then
    if s.anyBound then s.complete t .portBusy
    else State.complete { s with memsize := memsize.toNat, stallLimit := stallLimit.toNat } t .ok
  else s.complete t .badArgument

/-- CONFIGURE (R178). -/
def execConfigure (p : PortId) (s : State) : Outcome :=
  .next <| s.take p fun t c s => match c with
    | .configure memsize stallLimit => some (s.supervisorOnly t (·.configure t memsize stallLimit))
    | _ => none

end Sys2Proof.Machine
end

