-- ==== Sys2Proof/Machine/Dispatch.lean ====
section
/-! DEFINITION. The effect of every command on everything but the queue of commands to come: one arm per row of
spec/opcode_table.json, in the table's order. -/

namespace Sys2Proof.Machine

def exec (i : Instr) (s : State) : Host.Outcome State Fault Refusal :=
  match i with
  | .accessRequest p a pick => Sys2Proof.Machine.execAccessRequest p a pick s
  | .translateHeadAccess p => Sys2Proof.Machine.execTranslateHeadAccess p s
  | .deliverResponse p => Sys2Proof.Machine.execDeliverResponse p s
  | .grant able => Sys2Proof.Machine.execGrant able s
  | .memoryAnswerAccess a first => Sys2Proof.Machine.execMemoryAnswerAccess a s first
  | .memoryAnswerDescriptor a first => Sys2Proof.Machine.execMemoryAnswerDescriptor a s first
  | .tick first => Sys2Proof.Machine.execTick first s
  | .leaseExpiry p => Sys2Proof.Machine.execLeaseExpiry p s
  | .stallTimerExpiry p => Sys2Proof.Machine.execStallTimerExpiry p s
  | .renewal p value => Sys2Proof.Machine.execRenewal p value s
  | .post p value => Sys2Proof.Machine.execPost p value s
  | .pop p value => Sys2Proof.Machine.execPop p value s
  | .flagWordWrite p value => Sys2Proof.Machine.execFlagWordWrite p value s
  | .enableWordWrite p value => Sys2Proof.Machine.execEnableWordWrite p value s
  | .apertureStatusWrite p value => Sys2Proof.Machine.execApertureStatusWrite p value s
  | .apertureWrite p addr whole value => Sys2Proof.Machine.execApertureWrite p addr whole value s
  | .unknownCommand p => Sys2Proof.Machine.execUnknownCommand p s
  | .putEntry p => Sys2Proof.Machine.execPutEntry p s
  | .discard p => Sys2Proof.Machine.execDiscard p s
  | .clear p => Sys2Proof.Machine.execClear p s
  | .load p => Sys2Proof.Machine.execLoad p s
  | .abortLoad p => Sys2Proof.Machine.execAbortLoad p s
  | .commit p first => Sys2Proof.Machine.execCommit p s first
  | .cancelCommit p first => Sys2Proof.Machine.execCancelCommit p s first
  | .bind p => Sys2Proof.Machine.execBind p s
  | .unbind p => Sys2Proof.Machine.execUnbind p s
  | .setLease p => Sys2Proof.Machine.execSetLease p s
  | .fence p => Sys2Proof.Machine.execFence p s
  | .unfence p => Sys2Proof.Machine.execUnfence p s
  | .resolveRetry p => Sys2Proof.Machine.execResolveRetry p s
  | .resolveSkip p => Sys2Proof.Machine.execResolveSkip p s
  | .resolveFence p => Sys2Proof.Machine.execResolveFence p s
  | .readFault p => Sys2Proof.Machine.execReadFault p s
  | .setStandby p => Sys2Proof.Machine.execSetStandby p s
  | .handover p => Sys2Proof.Machine.execHandover p s
  | .configure p => Sys2Proof.Machine.execConfigure p s
  | .sync p => Sys2Proof.Machine.execSync p s
  | .checkPage p => Sys2Proof.Machine.execCheckPage p s
  | .claim p => Sys2Proof.Machine.execClaim p s
  | .accept p => Sys2Proof.Machine.execAccept p s
  | .portReset p => Sys2Proof.Machine.execPortReset p s
  | .deviceReset => Sys2Proof.Machine.execDeviceReset s
  | .powerUp => Sys2Proof.Machine.execPowerUp s

end Sys2Proof.Machine
end

