-- ==== Sys2Proof/Safety.lean ====
section
/-! DEFINITION. What counts as a sound state of the hub: the statements the manual makes about the whole hub at every moment,
each as a predicate of the state. -/

namespace Sys2Proof.Machine

/-! ## Map store and commit control -/

/-- R8: a slot's binder count is the number of ports whose binding names it. -/
def State.BinderCounts (s : State) : Prop :=
  ∀ n : SlotId, (s.slot n).binders = (List.finRange 6).countP fun p => (s.port p).state.boundSlot? = some n

/-- The number of transactions of port `p`'s issue queue that were translated through slot `n`. -/
def State.queuedThrough (s : State) (n : SlotId) (p : PortId) : Nat := s.mem.issue[p].countP (·.through = n)

/-- Whether an outstanding transaction was translated through slot `n`. -/
def Requester.goesThrough (q : Requester) (n : SlotId) : Bool :=
  match q with
  | .port _ _ m => m = n
  | .loadEngine => false

/-- R7: a slot's in-flight count is the number of accesses translated through it that memory has not answered: those in the
issue queues and those in the outstanding set. -/
def State.InFlightCounts (s : State) : Prop :=
  ∀ n : SlotId, (s.slot n).inFlight =
    ((List.finRange 6).map (s.queuedThrough n)).sum + s.mem.entries.countP fun e => e.requester.goesThrough n

/-- R5: a CLEAN slot's staged image equals its live image. -/
def State.CleanAreEqual (s : State) : Prop :=
  ∀ n : SlotId, (s.slot n).condition = .clean → (s.slot n).staged = (s.slot n).live

/-- R81: no load job names a SEALED slot. -/
def State.SealedNotLoadHeld (s : State) : Prop :=
  ∀ n : SlotId, (s.slot n).condition.isSealed = true → s.loadHeld n = false

/-- R86: every member of a waiting set is ATTACHED and bound to the slot whose set holds it. -/
def State.WaitersBound (s : State) : Prop :=
  ∀ (n : SlotId) (p : PortId), p ∈ (s.slot n).condition.waiting →
    (s.port p).state.isAttached = true ∧ (s.port p).state.boundSlot? = some n

/-- R82, R83, R87: between happenings no pending commit stands at its boundary, for the swap is made in the happening that
reaches it. -/
def State.NoSwapDue (s : State) : Prop :=
  ∀ (n : SlotId) (c : PendingCommit), (s.slot n).condition = .sealed c → c.reached (s.slot n).inFlight = false

/-! ## Port table and supervisor rights -/

/-- R103, R120: the lease is FROZEN exactly while the port is STALLED; a running lease's remaining ticks are at most the period,
and at least 1 while it runs, since 0 is a violation in the happening that reaches it (R121). -/
def PortRec.LeaseSound (r : PortRec) : Prop :=
  match r.state with
  | .detached | .fenced => True
  | .attached b => b.lease.phase ≠ .frozen ∧ 1 ≤ b.lease.remaining ∧ b.lease.remaining ≤ r.params.period
  | .stalled b _ => b.lease.phase = .frozen ∧ 1 ≤ b.lease.remaining ∧ b.lease.remaining ≤ r.params.period

/-- R119: every port's lease period is 64 to 65535, and its running lease is sound. -/
def State.LeasesSound (s : State) : Prop :=
  ∀ p : PortId, Config.minPeriod ≤ (s.port p).params.period ∧ (s.port p).params.period ≤ Config.maxPeriod ∧
    (s.port p).LeaseSound

/-- R157: the standby and the OFFERED port are never the supervisor, an offer exists only while a supervisor does, and a FENCED
port holds no rights, no designation and no offer (R163, R164). -/
def State.RolesSound (s : State) : Prop :=
  (∀ p : PortId, s.rights.holder = some p → s.rights.standby ≠ some p ∧ s.rights.offer ≠ some p) ∧
  (s.rights.holder = none → s.rights.offer = none) ∧
  ∀ p : PortId, (s.port p).state.isFenced = true →
    s.rights.holder ≠ some p ∧ s.rights.standby ≠ some p ∧ s.rights.offer ≠ some p

/-- The command records of a port that are in progress: its load jobs and pending commits whose completion is owed (R171). -/
def State.inProgress (s : State) (p : PortId) : Nat :=
  s.jobs.countP (fun j => j.owed && j.issuer.port = p) +
    (List.finRange 16).countP fun n => match (s.slot n).condition with
      | .sealed c => c.owed && c.issuer.port = p
      | .clean | .dirty => false

/-- R171: a port's outstanding count is the number of its records posted, in progress or completed, and never exceeds 4. -/
def State.OutstandingCounts (s : State) : Prop :=
  ∀ p : PortId, (s.port p).outstanding ≤ Config.commandLimit ∧
    (s.port p).outstanding = (s.port p).commands.length + s.inProgress p + (s.port p).completions.length

/-! ## Fault queue and load queue -/

/-- R138, for one port: it has an ACCESS record, with the sequence number its record names, exactly when it is STALLED, and at
most one LEASE record, only while it is FENCED. -/
def State.RecordsOf (s : State) (p : PortId) : Prop :=
  (s.faults.filter fun r => r.body.isAccess && r.port = p).map (·.seq) =
      (match (s.port p).state with
        | .stalled _ st => [st.seq]
        | .detached | .attached _ | .fenced => []) ∧
    s.faults.countP (fun r => !r.body.isAccess && r.port = p) ≤ if (s.port p).state.isFenced then 1 else 0

/-- R138: no two records carry the same sequence number, and each port has the records its state calls for. -/
def State.FaultQueueSound (s : State) : Prop :=
  (s.faults.map (·.seq)).Nodup ∧ ∀ p : PortId, s.RecordsOf p

/-- Whether a job is RUNNING. -/
def Job.isRunning (j : Job) : Bool := j.state ≠ .queued

/-- R61: the run of a job lies within the pages, and fewer pages than its count are done. -/
def Job.Sound (j : Job) : Prop :=
  1 ≤ j.count ∧ j.first.val + j.count ≤ 256 ∧
    match j.state with
    | .queued => True
    | .running done _ => done < j.count

/-- R60: the load queue holds at most 8 jobs, the head is RUNNING and every job behind it QUEUED. -/
def State.LoadQueueSound (s : State) : Prop :=
  s.jobs.length ≤ Config.loadPlaces ∧ (∀ j ∈ s.jobs, j.Sound) ∧
    match s.jobs with
    | [] => True
    | j :: rest => j.isRunning = true ∧ ∀ k ∈ rest, k.isRunning = false

/-! ## Memory port and access slots -/

/-- R46: no two outstanding transactions have the same number, at most 16 are outstanding, and each carries the reset
generation, since a device reset empties the set. -/
def State.OutstandingSetSound (s : State) : Prop :=
  (s.mem.entries.map (·.number)).Nodup ∧ s.mem.entries.length ≤ Config.transactionLimit ∧
    ∀ e ∈ s.mem.entries, e.generation = s.mem.generation

/-- Whether the read of the RUNNING job is OUTSTANDING. -/
def State.readOutstanding (s : State) : Bool :=
  match s.jobs with
  | [] => false
  | j :: _ => match j.state with
    | .running _ (.outstanding _) => true
    | .running _ .requested | .queued => false

/-- R48, R61: the load engine has an entry in the outstanding set exactly while the RUNNING job's read is OUTSTANDING, and then
one. -/
def State.LoadReadSound (s : State) : Prop :=
  s.mem.entries.countP (·.requester = .loadEngine) = s.readOutstanding.toNat

/-- Whether an access slot stands in its port's arrival order: occupied and not marked for discard (R23). -/
def AccessSlot.inOrder (a : AccessSlot) : Bool :=
  match a.state with
  | .issued _ discard => !discard
  | .untranslated | .stalled | .answered _ _ => true

/-- R22, R23: the arrival order holds each occupied unmarked slot once, and a request is held off only while all eight slots are
occupied. -/
def PortRec.ArrivalSound (r : PortRec) : Prop :=
  r.arrival.Nodup ∧ (∀ k : AccId, k ∈ r.arrival ↔ r.slots[k].any (·.inOrder) = true) ∧
    (r.requests ≠ [] → ∀ k : AccId, r.slots[k].isSome = true)

/-- R22, R23 at every port. -/
def State.ArrivalsSound (s : State) : Prop := ∀ p : PortId, (s.port p).ArrivalSound

/-- R23: the access slot that is STALLED is the one of the port's stalled access, and there is none in a port that is not
STALLED. -/
def PortRec.StallSound (r : PortRec) : Prop :=
  ∀ k : AccId, r.slots[k].any (·.state = .stalled) = true ↔
    match r.state with
    | .stalled _ st => st.access = k
    | .detached | .attached _ | .fenced => False

/-- R23 at every port. -/
def State.StallsSound (s : State) : Prop := ∀ p : PortId, (s.port p).StallSound

/-- R23, R47: the transactions of port `p` for access slot `k` at the memory port, each by the slot it was translated through. -/
def State.transactionsOf (s : State) (p : PortId) (k : AccId) : List SlotId :=
  (s.mem.issue[p].filter (·.access = k)).map (·.through) ++
    s.mem.entries.filterMap fun e => match e.requester with
      | .port q l n => if q = p ∧ l = k then some n else none
      | .loadEngine => none

/-- R23, R39: an access slot is ISSUED exactly while one transaction of it is at the memory port, translated through the slot
it names. -/
def State.IssuedSound (s : State) : Prop :=
  ∀ (p : PortId) (k : AccId), s.transactionsOf p k =
    match (s.port p).slots[k].map (·.state) with
    | some (.issued n _) => [n]
    | some .untranslated | some .stalled | some (.answered _ _) | none => []

/-! ## The whole -/

/-- R151, R178: MEMSIZE and the stall limit are in their ranges. -/
def State.ConfigurationSound (s : State) : Prop :=
  1 ≤ s.memsize ∧ s.memsize ≤ Config.maxMemsize ∧
    (s.stallLimit = 0 ∨ (Config.minStallLimit ≤ s.stallLimit ∧ s.stallLimit ≤ Config.maxStallLimit))

/-- R151: a STALLED port has a stall timer exactly when the stall limit is not 0, with 1 to the stall limit ticks left. -/
def State.TimersSound (s : State) : Prop :=
  ∀ p : PortId, match (s.port p).state with
    | .stalled _ st => match st.timer with
      | none => s.stallLimit = 0
      | some t => 1 ≤ t ∧ t ≤ s.stallLimit
    | .detached | .attached _ | .fenced => True

/-- A sound state: everything the manual says of the hub at every moment between two happenings. -/
structure State.Sound (s : State) : Prop where
  binderCounts : s.BinderCounts
  inFlightCounts : s.InFlightCounts
  cleanAreEqual : s.CleanAreEqual
  sealedNotLoadHeld : s.SealedNotLoadHeld
  waitersBound : s.WaitersBound
  noSwapDue : s.NoSwapDue
  leasesSound : s.LeasesSound
  rolesSound : s.RolesSound
  outstandingCounts : s.OutstandingCounts
  faultQueueSound : s.FaultQueueSound
  loadQueueSound : s.LoadQueueSound
  outstandingSetSound : s.OutstandingSetSound
  loadReadSound : s.LoadReadSound
  arrivalsSound : s.ArrivalsSound
  stallsSound : s.StallsSound
  issuedSound : s.IssuedSound
  configurationSound : s.ConfigurationSound
  timersSound : s.TimersSound

/-! ## The terms of the statements: what a command reads -/

/-- R28: the slot is SEALED with boundary DRAIN, which holds translation through it. -/
def State.DrainHeld (s : State) (n : SlotId) : Prop := ∃ c, (s.slot n).condition = .sealed c ∧ c.boundary = .drain

/-- R29: the address is a multiple of 4 and the access stays within its page. -/
def InShape (a : Access) : Prop := a.addr.toNat % 4 = 0 ∧ a.addr.toNat % 4096 + a.beats * 4 ≤ 4096

/-- R62: the arguments of a LOAD are in range, but for the slot: the run lies within the 256 pages, the address is a multiple of 4
and the whole array lies within MEMSIZE. -/
def LoadInRange (memsize : Nat) (first : Byte) (count : BitVec 9) (addr : BitVec 24) : Prop :=
  1 ≤ count.toNat ∧ count.toNat ≤ 256 ∧ first.toNat + count.toNat ≤ 256 ∧ addr.toNat % 4 = 0 ∧
    addr.toNat + 4 * count.toNat ≤ memsize * 4096

/-- R2: the rights grant an access of this kind. -/
def Rights.Grants (g : Rights) (kind : AccessKind) : Prop := g = .rw ∨ (g = .ro ∧ kind = .read)

/-- R47, R48: requester `q` of the arbiter is ready, the ports being 0 to 5 and the load engine 6. -/
def State.Ready (s : State) (q : Fin 7) : Prop :=
  (∃ p : PortId, p.val = q.val ∧ s.mem.issue[p] ≠ []) ∨
    (q = 6 ∧ ∃ j rest done, s.jobs = j :: rest ∧ j.state = .running done .requested)

/-- R49, R50: the next grant goes to `q`, the first ready requester in cyclic order from the round-robin position, and gives
the lowest transaction number not in use. -/
def State.GrantDue (s : State) (q : Fin 7) (number : TxnId) : Prop :=
  s.mem.entries.length < 16 ∧ s.Ready q ∧ (∀ o : Fin 7, (o - s.mem.position).val < (q - s.mem.position).val → ¬ s.Ready o) ∧
    (∀ e ∈ s.mem.entries, e.number ≠ number) ∧ ∀ m < number, ∃ e ∈ s.mem.entries, e.number = m

/-- R55: the answer is that of entry `e`, which stands between `before` and `after` in the outstanding set. -/
def State.Answers (s : State) (a : MemAnswer) (before : List OutEntry) (e : OutEntry) (after : List OutEntry) : Prop :=
  a.generation = s.mem.generation ∧ s.mem.entries = before ++ e :: after ∧ e.number = a.number ∧
    ∀ x ∈ before, x.number ≠ a.number

/-- R60: the load queue is `j` ahead of `rest`, whose jobs are all QUEUED. -/
def State.Runs (s : State) (j : Job) (rest : List Job) : Prop := s.jobs = j :: rest ∧ ∀ k ∈ rest, k.state = .queued

/-- R10, R62, R81: the slot is SEALED. -/
def State.SealedAt (s : State) (n : SlotId) : Prop := ∃ c, (s.slot n).condition = .sealed c

/-- R9: some load job names the slot. -/
def State.LoadHeldAt (s : State) (n : SlotId) : Prop := ∃ j ∈ s.jobs, j.slot = n

/-- R172: the record at the head of port `p`'s command queue is `r`, which holds command `c`, with `rest` behind it. -/
def State.Heads (s : State) (p : PortId) (r : CommandRecord) (c : Command) (rest : List CommandRecord) : Prop :=
  (s.port p).commands = r :: rest ∧ r.command = c

/-- R159: the commands that need supervisor rights. -/
def Command.NeedsRights : Command → Prop
  | .sync | .checkPage _ _ | .claim | .accept | .unknown => False
  | .putEntry _ _ _ _ | .discard _ | .clear _ | .load _ _ _ _ | .abortLoad _ | .commit _ _ | .cancelCommit _ | .bind _ _
  | .unbind _ | .setLease _ _ _ | .fence _ | .unfence _ | .resolve _ _ | .readFault _ | .setStandby _ | .handover _
  | .configure _ _ => True

/-- The rows of the opcode table that take a record of this command from port `p`. A RESOLVE goes to the row of its action; the
action code 3, which names none, is taken by each of the three rows. The rows COMMIT and CANCEL_COMMIT have `first` as the order of
the ports that they release. -/
def Command.rows (c : Command) (p : PortId) (first : List PortId) : List Instr :=
  match c with
  | .putEntry _ _ _ _ => [.putEntry p]
  | .discard _ => [.discard p]
  | .clear _ => [.clear p]
  | .load _ _ _ _ => [.load p]
  | .abortLoad _ => [.abortLoad p]
  | .commit _ _ => [.commit p first]
  | .cancelCommit _ => [.cancelCommit p first]
  | .bind _ _ => [.bind p]
  | .unbind _ => [.unbind p]
  | .setLease _ _ _ => [.setLease p]
  | .fence _ => [.fence p]
  | .unfence _ => [.unfence p]
  | .resolve _ action => match action.toNat with
    | 0 => [.resolveRetry p]
    | 1 => [.resolveSkip p]
    | 2 => [.resolveFence p]
    | _ => [.resolveRetry p, .resolveSkip p, .resolveFence p]
  | .readFault _ => [.readFault p]
  | .setStandby _ => [.setStandby p]
  | .handover _ => [.handover p]
  | .configure _ _ => [.configure p]
  | .sync => [.sync p]
  | .checkPage _ _ => [.checkPage p]
  | .claim => [.claim p]
  | .accept => [.accept p]
  | .unknown => [.unknownCommand p]

/-- The rows of the opcode table that take the head record of port `p`. -/
def takingRows (p : PortId) (first : List PortId) : List Instr :=
  [.unknownCommand p, .putEntry p, .discard p, .clear p, .load p, .abortLoad p, .commit p first, .cancelCommit p first, .bind p,
    .unbind p, .setLease p, .fence p, .unfence p, .resolveRetry p, .resolveSkip p, .resolveFence p, .readFault p, .setStandby p,
    .handover p, .configure p, .sync p, .checkPage p, .claim p, .accept p]

/-- R188: the bits of words 1 and 2 of a command record that a command of this code uses; all others are reserved. -/
def usedBits (code : Byte) : Word × Word :=
  match code.toNat with
  | 0x01 => (0x0000FFFF, 0x00003FFF)
  | 0x02 | 0x03 | 0x05 | 0x07 | 0x09 | 0x0B | 0x0C | 0x0E | 0x0F | 0x10 => (0x000000FF, 0)
  | 0x04 => (0x01FFFFFF, 0x00FFFFFF)
  | 0x06 => (0x000003FF, 0)
  | 0x08 | 0x21 => (0x0000FFFF, 0)
  | 0x0A => (0x000003FF, 0x0000FFFF)
  | 0x0D => (0x0003FFFF, 0)
  | 0x11 => (0x00001FFF, 0x0000FFFF)
  | _ => (0, 0)

/-! ## The terms of the statements: what a command leaves -/

/-- The completion record of a taken record (R174). -/
def CommandRecord.completion (r : CommandRecord) (status : Status) (result : Option Result := none) : Completion :=
  { tag := r.tag, code := r.code, status := status, result := result }

/-- `s` with `rest` left in port `p`'s command queue. -/
def State.taken (s : State) (p : PortId) (rest : List CommandRecord) : State :=
  { s with ports := s.ports.set p { s.ports[p] with commands := rest } }

/-- `s` with a completion at the tail of port `p`'s completion queue and its COMPLETION flag, bit 0, set (R175). -/
def State.joined (s : State) (p : PortId) (c : Completion) : State :=
  { s with
    ports := s.ports.set p
      { s.ports[p] with completions := s.ports[p].completions ++ [c], flags := s.ports[p].flags ||| 1#6 } }

/-- `s` once port `p` has taken `r` ahead of `rest` and completed it with nothing else done (R173). -/
def State.completed (s : State) (p : PortId) (r : CommandRecord) (rest : List CommandRecord) (status : Status)
    (result : Option Result := none) : State :=
  (s.taken p rest).joined p (r.completion status result)

/-- `s` with the COMMIT completion joined at the issuer of `c` if it is owed (R89, R91). -/
def State.commitCompleted (s : State) (c : PendingCommit) (status : Status) (result : Option Result) : State :=
  if c.owed then s.joined c.issuer.port { tag := c.issuer.tag, code := 0x06, status := status, result := result } else s

/-- `s` once the head access of port `p` has been translated: what the row TRANSLATE_HEAD_ACCESS of `p` answers. -/
def State.translated (s : State) (p : PortId) : State :=
  match exec (.translateHeadAccess p) s with
  | .next t => t
  | .fault _ | .refused _ => s

/-- `s` once the head access of each ATTACHED port bound to slot `n` has been translated, the ports in `first` before the others
(R27, R89). -/
def State.released (s : State) (n : SlotId) (first : List PortId) : State :=
  ((portOrder first).filter fun p => s.ports[p].state.isAttached && s.ports[p].state.boundSlot? = some n).foldl
    State.translated s

/-- `s` with the staged image of slot `n` live and the slot CLEAN (R15). -/
def State.imageSwapped (s : State) (n : SlotId) : State :=
  { s with slots := s.slots.set n { s.slots[n] with live := s.slots[n].staged, condition := .clean } }

/-- `s` after the swap of slot `n`, whose pending commit was `c` with boundary MARK (R89). -/
def State.markSwapped (s : State) (n : SlotId) (c : PendingCommit) : State :=
  (s.imageSwapped n).commitCompleted c .ok (some (.commit true))

/-- `s` after the swap of slot `n`, whose pending commit was `c` with boundary DRAIN, with the head accesses that the seal held
translated before the completion joins (R89). -/
def State.drainSwapped (s : State) (n : SlotId) (c : PendingCommit) (first : List PortId) : State :=
  ((s.imageSwapped n).released n first).commitCompleted c .ok (some (.commit true))

/-- The completion that joins port `q`'s queue when port `p` leaves the waiting set it is in as its last member: the owed one of
a COMMIT that `q` issued (R87, R89). -/
def State.swapCompletions (s : State) (p q : PortId) : List Completion :=
  match s.ports[p].state.boundSlot? with
  | none => []
  | some n => match s.slots[n].condition with
    | .clean | .dirty => []
    | .sealed c => match c.boundary with
      | .drain => []
      | .mark waiting =>
        if p ∈ waiting ∧ (∀ o ∈ waiting, o = p) ∧ c.owed = true ∧ c.issuer.port = q then
          [{ tag := c.issuer.tag, code := 0x06, status := .ok, result := some (.commit true) }]
        else []

/-- The load queue once its head has left it (R65, R71): the job now at the head is RUNNING and its first read REQUESTED. -/
def started : List Job → List Job
  | [] => []
  | j :: rest => { j with state := .running 0 .requested } :: rest

/-- `s` with the LOAD completion of job `j` joined at its issuer if it is owed (R71). -/
def State.loadCompleted (s : State) (j : Job) (status : Status) (done : Nat) : State :=
  if j.owed then
    s.joined j.issuer.port { tag := j.issuer.tag, code := 0x04, status := status, result := some (.pagesDone done) }
  else s

/-- An access slot answered without memory: no data, and the write data discarded (R36, R37). -/
def answeredSlot (a : Access) (kind : ResponseKind) : AccessSlot :=
  { access := { a with data := [] }, state := .answered { tag := a.tag, kind := kind, data := [] } none }

/-- `s` with holdings `h`, and the ROLE flag, bit 4, set on every port whose own role they change (R158). -/
def State.rightsMoved (s : State) (h : Holdings) : State :=
  { s with
    rights := h
    ports := Vector.ofFn fun q =>
      if h.role q = s.rights.role q then s.ports[q] else { s.ports[q] with flags := s.ports[q].flags ||| 16#6 } }

/-- The holdings once a fence or a port reset has ended the roles of port `p` (R163, R164): when `p` was the supervisor, an
ATTACHED standby succeeds it and any other standby stays standby; otherwise its designation and its offer end. -/
def State.rolesEnded (s : State) (p : PortId) : Holdings :=
  if s.rights.holder = some p then
    match s.rights.standby with
    | none => { supervisor := none, standby := none, offer := none }
    | some b =>
      if b ≠ p ∧ s.ports[b].state.isAttached = true then
        { supervisor := some (b, .succession), standby := none, offer := none }
      else { supervisor := none, standby := some b, offer := none }
  else
    { s.rights with
      standby := if s.rights.standby = some p then none else s.rights.standby
      offer := if s.rights.offer = some p then none else s.rights.offer }

/-- The flags of port `q` once a fence or a port reset has taken port `p` out of a waiting set and ended its roles: COMPLETION, bit
0, where a completion joined, and ROLE, bit 4, where the port's own role changed (R158, R175). -/
def State.flagsAfterLoss (s : State) (p q : PortId) : BitVec 6 :=
  s.ports[q].flags ||| (if s.swapCompletions p q = [] then 0#6 else 1#6) |||
    if (s.rolesEnded p).role q = s.rights.role q then 0#6 else 16#6

/-- The fault queue without the ACCESS record of port `p` (R145). -/
def State.faultsWithoutAccess (s : State) (p : PortId) : List FaultRecord :=
  s.faults.filter fun f => !(f.body.isAccess && f.port = p)

/-- R19, R24, R46, R49, R59, R79, R118, R136, R156, R157, R168, R179, R185: every piece of the hub's state but the reset generation
has its value after device reset, and port `p` has then accepted `requests p` as far as it has free slots. -/
structure State.InResetState (s : State) (requests : PortId → List HeldRequest) : Prop where
  slots : ∀ n : SlotId, s.slots[n] =
    { live := Vector.replicate 256 { frame := 0, rights := .none }
      staged := Vector.replicate 256 { frame := 0, rights := .none }
      condition := .clean, inFlight := 0, binders := 0 }
  ports : ∀ p : PortId, s.ports[p] = PortRec.acceptHeld
    { state := .detached, params := { period := 1024, fraction := .zero }, slots := Vector.replicate 8 none, arrival := []
      requests := requests p, staging := Vector.replicate 4 0, commands := [], completions := [], outstanding := 0
      postRefused := false, renewIgnored := false, flags := 0, enables := 0 }
  jobs : s.jobs = []
  entries : s.mem.entries = []
  issue : ∀ p : PortId, s.mem.issue[p] = []
  position : s.mem.position = 0
  faults : s.faults = []
  seqCounter : s.seqCounter = 0
  stampCount : s.stampCount = 0
  rights : s.rights = { supervisor := some (0, .reset), standby := none, offer := none }
  memsize : s.memsize = 4096
  stallLimit : s.stallLimit = 0

/-- The port record after a tick that expires neither lease nor stall timer (R121, R122, R151). -/
def PortRec.ticked (r : PortRec) : PortRec :=
  match r.state with
  | .detached | .fenced => r
  | .attached b =>
    { r with
      state := .attached
        { b with
          lease :=
            { b.lease with
              remaining := b.lease.remaining - 1
              phase :=
                if b.lease.phase = .closed ∧ r.params.period - (b.lease.remaining - 1) = r.params.closedTicks then .opened
                else b.lease.phase
              warned := b.lease.warned || r.params.period - (b.lease.remaining - 1) = r.params.warningTicks } }
      flags :=
        if b.lease.warned = false ∧ r.params.period - (b.lease.remaining - 1) = r.params.warningTicks then r.flags ||| 4#6
        else r.flags }
  | .stalled b st => { r with state := .stalled b { st with timer := st.timer.map (· - 1) } }

end Sys2Proof.Machine
end

