-- ==== Sys2Proof/Certificates/Slice0/Obligations.lean ====
section
/-! DEFINITION. The statements for the provers. Those about a command's effect give the whole next state as an update of the
state before it, so that everything the update does not name is unchanged: registers, queues, flags, images and counts. -/

open Sys2Proof Sys2Proof.Machine

/-! ## The machine -/

/-- A step runs the command at the front of the queue on the state with the queue's rest; on an empty queue the hub idles (the
model's choice, notes/assumptions/13.md). -/
def Obligations.StepRunsFrontCommand : Prop :=
  (∀ (s : State) (c : Instr) (rest : List Instr),
    step { s with pending := c :: rest } = exec c { s with pending := rest }) ∧
  ∀ s : State, s.pending = [] → step s = .next s

/-- No command stops the hub, whatever the state, and none touches the queue of commands to come (one whose happening
cannot come about changes nothing, the model's choice, notes/assumptions/6.md). -/
def Obligations.EveryCommandGoesOn : Prop :=
  ∀ (i : Instr) (s : State), ∃ t, exec i s = .next t ∧ t.pending = s.pending

/-- The state after reset is sound. -/
def Obligations.ResetIsSound : Prop := State.reset.Sound

/-- R8: a slot's binder count is the number of ports whose binding names it, and every step keeps it so. -/
def Obligations.BinderCountsKept : Prop := ∀ s t : State, s.BinderCounts → step s = .next t → t.BinderCounts

/-- R7: a slot's in-flight count is the number of accesses translated through it that memory has not answered, and every step
keeps it so, whatever happens to their ports and to the slot. -/
def Obligations.InFlightCountsKept : Prop := ∀ s t : State, s.InFlightCounts → step s = .next t → t.InFlightCounts

/-- R171: a port's outstanding count is the number of its records posted, in progress or completed, and stays at most 4. The
premise that no load job names a SEALED slot is kept by every step too (`Obligations.CommitControlKept`). -/
def Obligations.OutstandingCountsKept : Prop :=
  ∀ s t : State, s.OutstandingCounts → s.SealedNotLoadHeld → step s = .next t → t.OutstandingCounts

/-- R138: each port has the fault records its state calls for, and no two records carry one sequence number. -/
def Obligations.FaultQueueKept : Prop := ∀ s t : State, s.FaultQueueSound → step s = .next t → t.FaultQueueSound

/-- R5, R81, R82, R83, R86, R87: a CLEAN slot's images are equal, a SEALED slot has no load job, the members of a waiting set
are ATTACHED to its slot, and no pending commit stands at its boundary. -/
def Obligations.CommitControlKept : Prop :=
  ∀ s t : State, s.CleanAreEqual ∧ s.SealedNotLoadHeld ∧ s.WaitersBound ∧ s.NoSwapDue → step s = .next t →
    t.CleanAreEqual ∧ t.SealedNotLoadHeld ∧ t.WaitersBound ∧ t.NoSwapDue

/-- R157, R163, R164: neither the standby nor the OFFERED port is the supervisor, an offer exists only while a supervisor does,
and a FENCED port holds no role. -/
def Obligations.RolesKept : Prop := ∀ s t : State, s.RolesSound → step s = .next t → t.RolesSound

/-- R103, R119, R120, R151, R178: the lease of a port is FROZEN exactly while it is STALLED and never stands at 0 ticks, and
lease parameters, configuration and stall timers stay in their ranges. -/
def Obligations.LeasesAndTimersKept : Prop :=
  ∀ s t : State, s.LeasesSound ∧ s.ConfigurationSound ∧ s.TimersSound → step s = .next t →
    t.LeasesSound ∧ t.ConfigurationSound ∧ t.TimersSound

/-- R46, R48, R60, R61: the outstanding set holds at most 16 transactions of distinct numbers and of the reset generation; the
load queue holds at most 8 jobs, only its head RUNNING; the load engine has one entry exactly while a read is OUTSTANDING. -/
def Obligations.MemoryPortKept : Prop :=
  ∀ s t : State, s.OutstandingSetSound ∧ s.LoadQueueSound ∧ s.LoadReadSound → step s = .next t →
    t.OutstandingSetSound ∧ t.LoadQueueSound ∧ t.LoadReadSound

/-- R22, R23, R39, R47: the arrival order holds each occupied unmarked slot once, a request is held off only while all eight
slots are occupied, a slot is STALLED only as its port's stalled access, and a slot is ISSUED exactly while one transaction of
it is at the memory port. -/
def Obligations.AccessSlotsKept : Prop :=
  ∀ s t : State, s.ArrivalsSound ∧ s.StallsSound ∧ s.IssuedSound → step s = .next t →
    t.ArrivalsSound ∧ t.StallsSound ∧ t.IssuedSound

/-- R188: the record a master builds for a command is read back as that command, with its tag and its code, and a record that
differs in reserved bits alone (bits 31 to 16 of word 0, the bits of words 1 and 2 that the command of its code does not use, all
of word 3) is read as the same command. -/
def Obligations.CommandRecordRoundTrip : Prop :=
  (∀ (c : Command) (tag : Byte), (c.record tag).command = c ∧ (c.record tag).tag = tag ∧ (c.record tag).code = c.code) ∧
  ∀ r v : CommandRecord, v[0].extractLsb' 0 16 = r[0].extractLsb' 0 16 →
    v[1] &&& (usedBits r.code).1 = r[1] &&& (usedBits r.code).1 → v[2] &&& (usedBits r.code).2 = r[2] &&& (usedBits r.code).2 →
    v.command = r.command ∧ v.tag = r.tag ∧ v.code = r.code

/-! ## Access slots and translation -/

/-- R22: with a free slot a request is accepted into one (the free slot is the operand's choice, notes/assumptions/1.md) and
takes the next arrival position, whatever the port's state; with all eight occupied it stays on the request channel, which the
model keeps as a queue (notes/assumptions/4.md). -/
def Obligations.RequestAcceptedOrHeldOff : Prop :=
  ∀ (s : State) (p : PortId) (a : Access) (pick k : AccId),
    (s.ports[p].requests = [] →
      (s.ports[p].slots[pick] = none ∧ k = pick ∨
        s.ports[p].slots[pick] ≠ none ∧ s.ports[p].slots[k] = none ∧ ∀ j < k, s.ports[p].slots[j] ≠ none) →
      exec (.accessRequest p a pick) s = .next
        { s with
          ports := s.ports.set p
            { s.ports[p] with
              slots := s.ports[p].slots.set k (some { access := a, state := .untranslated })
              arrival := s.ports[p].arrival ++ [k] } }) ∧
    ((∀ j : AccId, s.ports[p].slots[j] ≠ none) →
      exec (.accessRequest p a pick) s = .next
        { s with
          ports := s.ports.set p
            { s.ports[p] with requests := s.ports[p].requests ++ [{ access := a, pick := pick }] } })

/-- R26, R29, R36: the head access of a FENCED port is answered ERR_FENCED, of a DETACHED port ERR_NOMAP, and of an ATTACHED port
whose slot is not held and which fails a shape check ERR_BOUNDARY; its write data is discarded and nothing else changes. -/
def Obligations.TranslationAnswersErrors : Prop :=
  ∀ (s : State) (p : PortId) (k : AccId) (a : Access) (kind : ResponseKind), s.ports[p].head? = some (k, a) →
    (s.ports[p].state = .fenced ∧ kind = .errFenced ∨ s.ports[p].state = .detached ∧ kind = .errNomap ∨
      ∃ b, s.ports[p].state = .attached b ∧ ¬ s.DrainHeld b.slot ∧ ¬ InShape a ∧ kind = .errBoundary) →
    exec (.translateHeadAccess p) s = .next
      { s with
        ports := s.ports.set p { s.ports[p] with slots := s.ports[p].slots.set k (some (answeredSlot a kind)) } }

/-- R30, R31, R32, R33, R47: a head access that passes its checks through the live entry of its page is issued: its slot is
ISSUED, the in-flight count rises, and the transaction joins the tail of its port's issue queue. -/
def Obligations.TranslationIssues : Prop :=
  ∀ (s : State) (p : PortId) (k : AccId) (a : Access) (b : Binding) (page : Page),
    s.ports[p].head? = some (k, a) → s.ports[p].state = .attached b → ¬ s.DrainHeld b.slot → InShape a →
    page.val = a.addr.toNat / 4096 → s.slots[b.slot].live[page].rights.Grants a.kind →
    s.slots[b.slot].live[page].frame.toNat < s.memsize →
    exec (.translateHeadAccess p) s = .next
      { s with
        ports := s.ports.set p
          { s.ports[p] with
            slots := s.ports[p].slots.set k (some { access := a, state := .issued b.slot false }) }
        slots := s.slots.set b.slot { s.slots[b.slot] with inFlight := s.slots[b.slot].inFlight + 1 }
        mem :=
          { s.mem with
            issue := s.mem.issue.set p
              (s.mem.issue[p] ++
                [{ access := k, through := b.slot, kind := a.kind
                   addr := BitVec.ofNat 24 (s.slots[b.slot].live[page].frame.toNat * 4096 + a.addr.toNat % 4096)
                   beats := a.beats, data := a.data }]) } }

/-- R31, R32, R143: a head access that fails an entry check, rights before frame, stalls its port: the slot is STALLED, an
ACCESS record with its number and stamp joins the fault queue, FAULT is set on the supervisor, the port is STALLED with its
binding kept and its lease FROZEN, the stall timer starts unless the limit is 0, and the port leaves the waiting set. -/
def Obligations.TranslationStalls : Prop :=
  ∀ (s : State) (p : PortId) (k : AccId) (a : Access) (b : Binding) (page : Page) (f : FaultKind),
    s.ports[p].head? = some (k, a) → s.ports[p].state = .attached b → ¬ s.DrainHeld b.slot → InShape a →
    page.val = a.addr.toNat / 4096 →
    (s.slots[b.slot].live[page].rights = .none ∧ f = .noEntry ∨
      s.slots[b.slot].live[page].rights = .ro ∧ a.kind = .write ∧ f = .writeDenied s.slots[b.slot].live[page].frame ∨
      s.slots[b.slot].live[page].rights.Grants a.kind ∧ s.memsize ≤ s.slots[b.slot].live[page].frame.toNat ∧
        f = .frameRange s.slots[b.slot].live[page].frame) →
    exec (.translateHeadAccess p) s = .next
      ((State.raiseSupervisor
        { s with
          faults := s.faults ++
            [{ seq := s.nextSequence, port := p, stamp := s.stampCount, body := .access f b.slot page a.kind a.tag }]
          seqCounter := s.nextSequence + 1
          ports := s.ports.set p
            { s.ports[p] with
              slots := s.ports[p].slots.set k (some { access := a, state := .stalled })
              state := .stalled { b with lease := { b.lease with phase := .frozen } }
                { access := k, seq := s.nextSequence
                  timer := if s.stallLimit = 0 then none else some s.stallLimit } } } .fault).leaveWaiting p b.slot)

/-- R25, R26, R28: the head access is the UNTRANSLATED access with the oldest arrival position; with no head access, in a STALLED
port, and while the bound slot is SEALED with DRAIN, nothing is translated. -/
def Obligations.HeadAccessAndItsWaits : Prop :=
  (∀ (r : PortRec) (k : AccId) (a : Access), r.head? = some (k, a) ↔
    ∃ older younger, r.arrival = older ++ k :: younger ∧ r.slots[k] = some { access := a, state := .untranslated } ∧
      ∀ j ∈ older, ∀ b : Access, r.slots[j] ≠ some { access := b, state := .untranslated }) ∧
  ∀ (s : State) (p : PortId),
    (s.ports[p].head? = none ∨ (∃ b st, s.ports[p].state = .stalled b st) ∨
      ∃ b, s.ports[p].state = .attached b ∧ s.DrainHeld b.slot) →
    exec (.translateHeadAccess p) s = .next s

/-- R22, R40: the oldest unmarked access, when ANSWERED, is delivered and its slot freed, and a request held off is then
accepted into it (the model's reading, notes/assumptions/4.md); when it is in another state, or there is none, nothing is
delivered. -/
def Obligations.ResponsesLeaveInOrder : Prop :=
  ∀ (s : State) (p : PortId),
    (∀ k rest a response through, s.ports[p].arrival = k :: rest →
      s.ports[p].slots[k] = some { access := a, state := .answered response through } →
      (s.ports[p].requests = [] →
        exec (.deliverResponse p) s = .next
          { s with
            delivered := s.delivered ++ [(p, response)]
            ports := s.ports.set p
              { s.ports[p] with slots := s.ports[p].slots.set k none, arrival := rest } }) ∧
      ∀ h more, s.ports[p].requests = h :: more → (∀ j : AccId, s.ports[p].slots[j] ≠ none) →
        exec (.deliverResponse p) s = .next
          { s with
            delivered := s.delivered ++ [(p, response)]
            ports := s.ports.set p
              { s.ports[p] with
                slots := s.ports[p].slots.set k (some { access := h.access, state := .untranslated })
                arrival := rest ++ [k], requests := more } }) ∧
    ((∀ k rest a response through, s.ports[p].arrival = k :: rest →
        s.ports[p].slots[k] ≠ some { access := a, state := .answered response through }) →
      exec (.deliverResponse p) s = .next s)

/-! ## The memory port -/

/-- R47, R49, R50: a grant to a master port takes the head of its issue queue, gives it the lowest free number and the reset
generation, enters it in the outstanding set, sends it to memory, and moves the position past the port. -/
def Obligations.GrantToPort : Prop :=
  ∀ (s : State) (q : Fin 7) (number : TxnId) (p : PortId) (x : Issued) (rest : List Issued),
    s.GrantDue q number → p.val = q.val → s.mem.issue[p] = x :: rest →
    exec (.grant true) s = .next
      { s with
        mem :=
          { s.mem with
            entries := s.mem.entries ++
              [{ number := number, generation := s.mem.generation, requester := .port p x.access x.through, kind := x.kind
                 beats := x.beats }]
            issue := s.mem.issue.set p rest, position := q + 1 }
        sent := s.sent ++
          [{ number := number, generation := s.mem.generation, kind := x.kind, addr := x.addr, beats := x.beats
             data := x.data }] }

/-- R48, R49, R50, R64, R65: a grant to the load engine sends the RUNNING job's read of its current page, a READ of one beat at
address + 4 times the pages done, and the read becomes OUTSTANDING (the request is read from the load queue,
notes/assumptions/10.md). -/
def Obligations.GrantToLoadEngine : Prop :=
  ∀ (s : State) (number : TxnId) (j : Job) (rest : List Job) (done : Nat),
    s.GrantDue 6 number → s.jobs = j :: rest → j.state = .running done .requested →
    exec (.grant true) s = .next
      { s with
        jobs := { j with state := .running done (.outstanding false) } :: rest
        mem :=
          { s.mem with
            entries := s.mem.entries ++
              [{ number := number, generation := s.mem.generation, requester := .loadEngine, kind := .read, beats := 1 }]
            position := 0 }
        sent := s.sent ++
          [{ number := number, generation := s.mem.generation, kind := .read
             addr := j.addr + BitVec.ofNat 24 (4 * done), beats := 1, data := [] }] }

/-- R49: no grant is made while memory accepts no transaction (the operand of the row, notes/assumptions/10.md), while 16 are
outstanding, or while no requester is ready. -/
def Obligations.NoGrantMade : Prop :=
  ∀ (s : State) (able : Bool), (able = false ∨ 16 ≤ s.mem.entries.length ∨ ∀ q, ¬ s.Ready q) →
    exec (.grant able) s = .next s

/-- R38, R39, R53: memory's answer to an access removes its entry, lowers the in-flight count of the slot translated through and
makes the slot ANSWERED, OK or ERR_MEMORY; a slot marked for discard is freed without a response, and a request held off is then
accepted into it (the model's reading, notes/assumptions/4.md). The boundary that the fall reaches is tested after the fall and,
as the model's choice, after the answer is placed or dropped and the request accepted (notes/assumptions/17.md), with the head
accesses that a swap releases in any order of their ports (notes/assumptions/16.md). -/
def Obligations.AnswerReachesAccess : Prop :=
  ∀ (s : State) (x : MemAnswer) (before after : List OutEntry) (e : OutEntry) (p : PortId) (k : AccId)
    (through n : SlotId) (a : Access) (first : List PortId),
    s.Answers x before e after → e.requester = .port p k through →
    (s.ports[p].slots[k] = some { access := a, state := .issued n false } →
      exec (.memoryAnswerAccess x first) s = .next
        (State.testBoundary
          { s with
            mem := { s.mem with entries := before ++ after }
            slots := s.slots.set through { s.slots[through] with inFlight := s.slots[through].inFlight - 1 }
            ports := s.ports.set p
              { s.ports[p] with
                slots := s.ports[p].slots.set k
                  (some
                    { access := a
                      state := .answered
                        { tag := a.tag, kind := if x.outcome = .success then .ok else .errMemory
                          data := if x.outcome = .success ∧ a.kind = .read then x.data else [] } (some n) }) } }
          through first)) ∧
    (s.ports[p].slots[k] = some { access := a, state := .issued n true } →
      (s.ports[p].requests = [] →
        exec (.memoryAnswerAccess x first) s = .next
          (State.testBoundary
            { s with
              mem := { s.mem with entries := before ++ after }
              slots := s.slots.set through { s.slots[through] with inFlight := s.slots[through].inFlight - 1 }
              ports := s.ports.set p { s.ports[p] with slots := s.ports[p].slots.set k none } } through first)) ∧
      ∀ h more, s.ports[p].requests = h :: more → (∀ j : AccId, s.ports[p].slots[j] ≠ none) →
        exec (.memoryAnswerAccess x first) s = .next
          (State.testBoundary
            { s with
              mem := { s.mem with entries := before ++ after }
              slots := s.slots.set through { s.slots[through] with inFlight := s.slots[through].inFlight - 1 }
              ports := s.ports.set p
                { s.ports[p] with
                  slots := s.ports[p].slots.set k (some { access := h.access, state := .untranslated })
                  arrival := s.ports[p].arrival ++ [k], requests := more } } through first))

/-- R14, R64, R65, R66, R67, R191: a well-formed word sets the staged entry of the current page and makes the slot DIRTY, or, with
the code KEEP, leaves both; the job then presents its next read, or, after its last page, ends DONE and the next job starts. -/
def Obligations.DescriptorApplied : Prop :=
  ∀ (s : State) (x : MemAnswer) (first : List PortId) (before after : List OutEntry) (e : OutEntry) (j : Job)
    (rest : List Job) (done : Nat) (w : Word) (page : Page) (m : MapSlot),
    s.Answers x before e after → e.requester = .loadEngine → x.outcome = .success →
    x.data = [w.extractLsb' 0 8, w.extractLsb' 8 8, w.extractLsb' 16 8, w.extractLsb' 24 8] →
    s.Runs j rest → j.state = .running done (.outstanding false) → page.val = j.first.val + done →
    w.extractLsb' 14 18 = 0 →
    (w.extractLsb' 12 2 = 2 ∧ m = s.slots[j.slot] ∨
      ∃ g : Rights,
        (w.extractLsb' 12 2 = 0 ∧ g = .none ∨ w.extractLsb' 12 2 = 1 ∧ g = .ro ∨ w.extractLsb' 12 2 = 3 ∧ g = .rw) ∧
        m =
          { s.slots[j.slot] with
            staged := s.slots[j.slot].staged.set page { frame := w.extractLsb' 0 12, rights := g }
            condition := .dirty }) →
    (done + 1 < j.count →
      exec (.memoryAnswerDescriptor x first) s = .next
        { s with
          mem := { s.mem with entries := before ++ after }
          slots := s.slots.set j.slot m
          jobs := { j with state := .running (done + 1) .requested } :: rest }) ∧
    (done + 1 = j.count →
      exec (.memoryAnswerDescriptor x first) s = .next
        (State.loadCompleted
          { s with
            mem := { s.mem with entries := before ++ after }
            slots := s.slots.set j.slot m
            jobs := started rest } j .ok j.count))

/-- R68, R69, R71, R73: a malformed word ends the job BAD_DESCRIPTOR, outcome ERROR ends it FAILED_MEMORY, and any answer ends a
marked job ABORTED; nothing is written, pages done stays, the completion joins the issuer if owed and the next job starts. -/
def Obligations.DescriptorEndsJob : Prop :=
  ∀ (s : State) (x : MemAnswer) (first : List PortId) (before after : List OutEntry) (e : OutEntry) (j : Job)
    (rest : List Job) (done : Nat) (marked : Bool) (status : Status),
    s.Answers x before e after → e.requester = .loadEngine → s.Runs j rest →
    j.state = .running done (.outstanding marked) →
    (marked = true ∧ status = .aborted ∨
      marked = false ∧ x.outcome = .error ∧ status = .failedMemory ∨
      marked = false ∧ x.outcome = .success ∧ status = .badDescriptor ∧
        ∃ w : Word, w.extractLsb' 14 18 ≠ 0 ∧
          x.data = [w.extractLsb' 0 8, w.extractLsb' 8 8, w.extractLsb' 16 8, w.extractLsb' 24 8]) →
    exec (.memoryAnswerDescriptor x first) s = .next
      (State.loadCompleted
        { s with mem := { s.mem with entries := before ++ after }, jobs := started rest } j status done)

/-- R55: an answer of another generation than the current one, or whose number is not in use, is ignored; any other is taken as
the answer to the entry of its number, which leaves the outstanding set; nothing else of the memory port changes but the issue
queues, which an access that the swap releases may join. -/
def Obligations.OtherAnswersIgnored : Prop :=
  ∀ (s : State) (x : MemAnswer) (first : List PortId),
    ((x.generation ≠ s.mem.generation ∨ ∀ e ∈ s.mem.entries, e.number ≠ x.number) →
      exec (.memoryAnswerAccess x first) s = .next s ∧ exec (.memoryAnswerDescriptor x first) s = .next s) ∧
    ∀ before e after, s.Answers x before e after →
      ((∃ p k n, e.requester = .port p k n) →
        ∃ t, exec (.memoryAnswerAccess x first) s = .next t ∧
          t.mem = { s.mem with entries := before ++ after, issue := t.mem.issue }) ∧
      (e.requester = .loadEngine →
        ∃ t, exec (.memoryAnswerDescriptor x first) s = .next t ∧ t.mem = { s.mem with entries := before ++ after })

/-- R83, R86, R87, R89: a DRAIN boundary tested at in-flight count 0 brings the swap, above 0 nothing, and no port leaves it. A
port that leaves a waiting set with other members leaves only the set; when it was the last, the swap follows; a port that is no
member changes nothing, and neither does a test while the set has members. At a slot that is not SEALED nothing happens. The head
accesses that a DRAIN swap releases are translated each once, in any order of their ports (the order is the operand's,
notes/assumptions/16.md). -/
def Obligations.BoundaryBringsSwap : Prop :=
  (∀ (s : State) (n : SlotId) (first : List PortId),
    ((s.slots[n].condition = .clean ∨ s.slots[n].condition = .dirty) →
      s.testBoundary n first = s ∧ ∀ p : PortId, s.leaveWaiting p n = s) ∧
    ∀ c : PendingCommit, s.slots[n].condition = .sealed c →
      (c.boundary = .drain →
        (∀ p : PortId, s.leaveWaiting p n = s) ∧
        (s.slots[n].inFlight = 0 → s.testBoundary n first = s.drainSwapped n c first) ∧
        (s.slots[n].inFlight ≠ 0 → s.testBoundary n first = s)) ∧
      ∀ waiting : List PortId, c.boundary = .mark waiting →
        (waiting = [] → s.testBoundary n first = s.markSwapped n c) ∧ (waiting ≠ [] → s.testBoundary n first = s) ∧
        ∀ p : PortId,
          (p ∉ waiting → s.leaveWaiting p n = s) ∧
          (p ∈ waiting → (∀ q ∈ waiting, q = p) → s.leaveWaiting p n = s.markSwapped n c) ∧
          (p ∈ waiting → (∃ q ∈ waiting, q ≠ p) →
            s.leaveWaiting p n =
              { s with
                slots := s.slots.set n
                  { s.slots[n] with
                    condition := .sealed { c with boundary := .mark (waiting.filter (· ≠ p)) } } })) ∧
  (∀ (first : List PortId) (p : PortId), (portOrder first).count p = 1) ∧
  (∀ first : List PortId, first.Nodup → first <+: portOrder first) ∧
  ∀ order : List PortId, order.Perm (List.finRange 6) → portOrder order = order

/-! ## Faults, ticks and leases -/

/-- R140, R141, R142: a record that joins takes the counter's value, or the first number after it that no record holds, and the
tick stamp count; the counter moves past the number given; FAULT is set on the supervisor, on no port when there is none. -/
def Obligations.RecordsNumberedFromCounter : Prop :=
  (∀ (s : State) (p : PortId) (body : FaultBody), s.faults.length ≤ 12 →
    ∃ d ≤ 12, (∀ i < d, ∃ f ∈ s.faults, f.seq = s.seqCounter + BitVec.ofNat 16 i) ∧
      (∀ f ∈ s.faults, f.seq ≠ s.seqCounter + BitVec.ofNat 16 d) ∧
      s.nextSequence = s.seqCounter + BitVec.ofNat 16 d ∧
      s.joinFault p body =
        State.raiseSupervisor
          { s with
            faults := s.faults ++
              [{ seq := s.seqCounter + BitVec.ofNat 16 d, port := p, stamp := s.stampCount, body := body }]
            seqCounter := s.seqCounter + BitVec.ofNat 16 (d + 1) } .fault) ∧
  ∀ s : State,
    (∀ q o, s.rights.supervisor = some (q, o) →
      s.raiseSupervisor .fault =
        { s with ports := s.ports.set q { s.ports[q] with flags := s.ports[q].flags ||| 2#6 } } ∧
      s.raiseSupervisor .autoResolved =
        { s with ports := s.ports.set q { s.ports[q] with flags := s.ports[q].flags ||| 32#6 } }) ∧
    (s.rights.supervisor = none → s.raiseSupervisor .fault = s ∧ s.raiseSupervisor .autoResolved = s)

/-- R121, R141, R151, R153: a tick takes each of its parts exactly once, those the operand names first, and every order of the
parts is the order of some operand (the choice of the operand is the model's, notes/assumptions/2.md). The part at the tick stamp
count raises it; the part at a port's lease counts it, and the part at a stall timer lowers it, as long as more than one tick
remains; a lease or timer that is not running is left as it is. What an expiring part does stands in
`Obligations.LeaseViolationsFence` and `Obligations.StallTimerExpires`. -/
def Obligations.TickTakesEachPartOnce : Prop :=
  (∀ (first : List TickPart) (part : TickPart), (tickOrder first).count part = 1) ∧
  (∀ first : List TickPart, first.Nodup → first <+: tickOrder first) ∧
  (∀ order : List TickPart, order.Perm tickParts → tickOrder order = order) ∧
  (∀ (first : List TickPart) (s : State), exec (.tick first) s = .next ((tickOrder first).foldl State.tickPart s)) ∧
  ∀ (s : State) (p : PortId),
    s.tickPart .stamp = { s with stampCount := s.stampCount + 1 } ∧
    (∀ b : Binding, s.ports[p].state = .attached b → b.lease.phase ≠ .frozen → 2 ≤ b.lease.remaining →
      s.tickPart (.lease p) = { s with ports := s.ports.set p s.ports[p].ticked }) ∧
    ((∀ b : Binding, s.ports[p].state = .attached b → b.lease.phase = .frozen) → s.tickPart (.lease p) = s) ∧
    (∀ (b : Binding) (st : Stall) (n : Nat), s.ports[p].state = .stalled b st → st.timer = some n → 2 ≤ n →
      s.tickPart (.timer p) = { s with ports := s.ports.set p s.ports[p].ticked }) ∧
    ((∀ (b : Binding) (st : Stall), s.ports[p].state = .stalled b st → st.timer = none) → s.tickPart (.timer p) = s)

/-- R119, R121, R122, R141, R151: a tick at which no lease and no stall timer expires raises the stamp count by one, counts every
running lease that is not FROZEN, opening at the closed ticks (the period times the closed fraction, rounded down) and warning at
the warning ticks (the period times 3/4, rounded down), and lowers every stall timer, in any order of its parts (TICK is the
whole pulse in the model, notes/assumptions/3.md). -/
def Obligations.TickCounts : Prop :=
  (∀ l : LeaseParams,
    l.warningTicks = l.period * 3 / 4 ∧
      l.closedTicks = match l.fraction with | .zero => 0 | .quarter => l.period / 4 | .half => l.period / 2) ∧
  ∀ (s : State) (first : List TickPart),
    (∀ (p : PortId) (b : Binding), s.ports[p].state = .attached b → 2 ≤ b.lease.remaining ∧ b.lease.phase ≠ .frozen) →
    (∀ (p : PortId) (b : Binding) (st : Stall), s.ports[p].state = .stalled b st → ∀ n ∈ st.timer, 2 ≤ n) →
    exec (.tick first) s = .next
      { s with stampCount := s.stampCount + 1, ports := Vector.ofFn fun p : PortId => s.ports[p].ticked }

/-- R121, R123, R126: the tick that takes the remaining ticks to 0 is an EXPIRED violation, a renewal in CLOSED an EARLY one
whatever it carries, and a renewal in FRESH or OPEN with another number than the expected one a SEQUENCE one: the port enters
FENCED with a LEASE record of that kind. The row LEASE_EXPIRY and the part of the row TICK at that lease do the same there; while
more than one tick remains, or no lease counts, nothing expires (how the two rows stand to each other is the model's reading,
notes/assumptions/3.md). -/
def Obligations.LeaseViolationsFence : Prop :=
  ∀ (s : State) (p : PortId),
    (∀ b : Binding, s.ports[p].state = .attached b → b.lease.phase ≠ .frozen →
      (64 ≤ s.ports[p].params.period → b.lease.remaining = 1 →
        exec (.leaseExpiry p) s = .next (s.enterFenced p (some .expired)) ∧
          s.tickPart (.lease p) = s.enterFenced p (some .expired)) ∧
      (b.lease.remaining ≠ 1 → exec (.leaseExpiry p) s = .next s) ∧
      ∀ value : Word,
        (b.lease.phase = .closed → exec (.renewal p value) s = .next (s.enterFenced p (some .early))) ∧
        (b.lease.phase ≠ .closed → value.extractLsb' 0 8 ≠ b.lease.expected →
          exec (.renewal p value) s = .next (s.enterFenced p (some .sequence)))) ∧
    ((∀ b : Binding, s.ports[p].state ≠ .attached b) → exec (.leaseExpiry p) s = .next s)

/-- R27, R151, R152: the tick that takes a stall timer to 0 retires the record, answers the stalled access ERR_UNRESOLVED, makes the
port ATTACHED with its binding and a FRESH lease, sets AUTO_RESOLVED on the supervisor, and has the port's next head access
translated; otherwise no timer expires. The row STALL_TIMER_EXPIRY and the part of the row TICK at that timer do the same there
(how the two rows stand to each other is the model's reading, notes/assumptions/3.md). -/
def Obligations.StallTimerExpires : Prop :=
  ∀ (s : State) (p : PortId),
    (∀ (b : Binding) (st : Stall) (a : Access) (t : State), s.ports[p].state = .stalled b st → st.timer = some 1 →
      s.ports[p].slots[st.access] = some { access := a, state := .stalled } →
      t = State.translated
        (State.raiseSupervisor
          { s with
            faults := s.faultsWithoutAccess p
            ports := s.ports.set p
              { s.ports[p] with
                slots := s.ports[p].slots.set st.access (some (answeredSlot a .errUnresolved))
                state := .attached
                  { b with
                    lease :=
                      { phase := .fresh, remaining := s.ports[p].params.period, expected := b.lease.expected
                        warned := false } } } } .autoResolved) p →
      exec (.stallTimerExpiry p) s = .next t ∧ s.tickPart (.timer p) = t) ∧
    ((∀ b st, s.ports[p].state = .stalled b st → st.timer ≠ some 1) → exec (.stallTimerExpiry p) s = .next s)

/-- R123, R124, R125: in FRESH and OPEN a renewal with the expected number gives the lease its full period, the next expected
number (0 after 255), warned clear and CLOSED, or OPEN when the closed ticks (the period times the closed fraction, rounded down)
are 0; at a port that is not ATTACHED a renewal sets RENEW_IGNORED and changes nothing else. -/
def Obligations.RenewalAcceptedOrIgnored : Prop :=
  ∀ (s : State) (p : PortId) (value : Word),
    (∀ b : Binding, s.ports[p].state = .attached b → (b.lease.phase = .fresh ∨ b.lease.phase = .opened) →
      value.extractLsb' 0 8 = b.lease.expected →
      exec (.renewal p value) s = .next
        { s with
          ports := s.ports.set p
            { s.ports[p] with
              state := .attached
                { b with
                  lease :=
                    { phase :=
                        if (match s.ports[p].params.fraction with
                            | .zero => 0
                            | .quarter => s.ports[p].params.period / 4
                            | .half => s.ports[p].params.period / 2) = 0 then .opened
                        else .closed
                      remaining := s.ports[p].params.period, expected := b.lease.expected + 1, warned := false } } } }) ∧
    ((∀ b : Binding, s.ports[p].state ≠ .attached b) →
      exec (.renewal p value) s = .next
        { s with ports := s.ports.set p { s.ports[p] with renewIgnored := true } })

/-- R86, R87, R89, R127, R128, R140, R142, R158, R163, R164: entering FENCED. The port's untranslated accesses and its stalled one
are answered ERR_FENCED, those ISSUED or ANSWERED stay; its ACCESS record retires; its binding is gone and the binder count falls;
a member of its slot's waiting set leaves it, and the last one brings the swap with the COMMIT's completion at its issuer; its
roles end; a violation adds a LEASE record, numbered from the counter, with the lost-supervisor flag and the successor, and sets
FAULT on the port that then holds rights; ROLE is set where a role changes, and FENCED on the port. Nothing else changes. -/
def Obligations.EntryIntoFenced : Prop :=
  ∀ (s : State) (p : PortId) (cause : Option LeaseKind) (t : State), t = s.enterFenced p cause →
    (∃ slots, t.ports[p] =
        { s.ports[p] with
          state := .fenced, slots := slots, completions := s.ports[p].completions ++ s.swapCompletions p p
          flags := s.flagsAfterLoss p p ||| 8#6 ||| if cause ≠ none ∧ (s.rolesEnded p).holder = some p then 2#6 else 0#6 } ∧
      ∀ k : AccId, slots[k] =
        match s.ports[p].slots[k] with
        | some { access := a, state := .untranslated } => some (answeredSlot a .errFenced)
        | some { access := a, state := .stalled } => some (answeredSlot a .errFenced)
        | other => other) ∧
    (∀ q : PortId, q ≠ p → t.ports[q] =
      { s.ports[q] with
        completions := s.ports[q].completions ++ s.swapCompletions p q
        flags := s.flagsAfterLoss p q ||| if cause ≠ none ∧ (s.rolesEnded p).holder = some q then 2#6 else 0#6 }) ∧
    (∀ n : SlotId,
      t.slots[n].staged = s.slots[n].staged ∧ t.slots[n].inFlight = s.slots[n].inFlight ∧
      t.slots[n].binders =
        (if s.ports[p].state.boundSlot? = some n then s.slots[n].binders - 1 else s.slots[n].binders) ∧
      (s.ports[p].state.boundSlot? = some n →
        ∀ c waiting, s.slots[n].condition = .sealed c → c.boundary = .mark waiting → p ∈ waiting →
          ((∀ q ∈ waiting, q = p) → t.slots[n].live = s.slots[n].staged ∧ t.slots[n].condition = .clean) ∧
          ((∃ q ∈ waiting, q ≠ p) → t.slots[n].live = s.slots[n].live ∧
            t.slots[n].condition = .sealed { c with boundary := .mark (waiting.filter (· ≠ p)) })) ∧
      (s.ports[p].state.boundSlot? ≠ some n ∨ p ∉ s.slots[n].condition.waiting →
        t.slots[n].live = s.slots[n].live ∧ t.slots[n].condition = s.slots[n].condition)) ∧
    t.faults = s.faultsWithoutAccess p ++
      (match cause with
        | none => []
        | some kind =>
          [{ seq := (s.retireAccess p).nextSequence, port := p, stamp := s.stampCount
             body := .lease kind
              (if s.rights.holder = some p then .lost ((s.rolesEnded p).supervisor.map (·.1)) else .kept) }]) ∧
    t.seqCounter = (if cause = none then s.seqCounter else (s.retireAccess p).nextSequence + 1) ∧
    t.rights = s.rolesEnded p ∧ t.jobs = s.jobs ∧ t.mem = s.mem ∧ t.stampCount = s.stampCount ∧ t.memsize = s.memsize ∧
    t.stallLimit = s.stallLimit ∧ t.sent = s.sent ∧ t.delivered = s.delivered ∧ t.pending = s.pending

/-! ## The control aperture -/

/-- R170, R171, R176: below four outstanding records a post adds the staging words to the command queue and counts them, and at
four it sets POST_REFUSED and the record is lost; a pop removes the oldest completion and lowers the count, and changes nothing
with an empty queue. The value written does not matter. -/
def Obligations.PostAndPop : Prop :=
  ∀ (s : State) (p : PortId) (value : Word),
    (s.ports[p].outstanding < 4 →
      exec (.post p value) s = .next
        { s with
          ports := s.ports.set p
            { s.ports[p] with
              commands := s.ports[p].commands ++ [s.ports[p].staging], outstanding := s.ports[p].outstanding + 1 } }) ∧
    (4 ≤ s.ports[p].outstanding →
      exec (.post p value) s = .next { s with ports := s.ports.set p { s.ports[p] with postRefused := true } }) ∧
    (s.ports[p].completions = [] → exec (.pop p value) s = .next s) ∧
    ∀ c rest, s.ports[p].completions = c :: rest →
      exec (.pop p value) s = .next
        { s with
          ports := s.ports.set p
            { s.ports[p] with completions := rest, outstanding := s.ports[p].outstanding - 1 } }

/-- R177, R181, R182, R187: a write to the flag word clears the flags in whose places it has a 1 and no other; a write to the
enable word sets all six enables; a 1 in bit 16 or bit 17 of the aperture status word clears POST_REFUSED or RENEW_IGNORED. The
interrupt line is active exactly while some flag and its enable are 1. -/
def Obligations.FlagsEnablesAndIndications : Prop :=
  ∀ (s : State) (p : PortId) (value : Word),
    (∃ flags : BitVec 6, (∀ i < 6, flags.getLsbD i = (s.ports[p].flags.getLsbD i && !value.getLsbD i)) ∧
      exec (.flagWordWrite p value) s = .next { s with ports := s.ports.set p { s.ports[p] with flags := flags } }) ∧
    (∃ enables : BitVec 6, (∀ i < 6, enables.getLsbD i = value.getLsbD i) ∧
      exec (.enableWordWrite p value) s = .next
        { s with ports := s.ports.set p { s.ports[p] with enables := enables } }) ∧
    exec (.apertureStatusWrite p value) s = .next
      { s with
        ports := s.ports.set p
          { s.ports[p] with
            postRefused := s.ports[p].postRefused && !value.getLsbD 16
            renewIgnored := s.ports[p].renewIgnored && !value.getLsbD 17 } } ∧
    (s.interruptLine p = true ↔ ∃ i < 6, s.ports[p].flags.getLsbD i = true ∧ s.ports[p].enables.getLsbD i = true)

/-- R169, R186: an aperture write acts by the low six bits of its address: the staging words store it, the post, pop, renewal,
status, flag and enable words act as their own rows do, every other word ignores it; a write narrower than a word or at an
offset that is not a multiple of 4 changes nothing (how this row stands to the others: notes/assumptions/11.md). -/
def Obligations.ApertureWriteActsByOffset : Prop :=
  ∀ (s : State) (p : PortId) (addr : Nat) (value : Word),
    exec (.apertureWrite p addr false value) s = .next s ∧
    (addr % 4 ≠ 0 → exec (.apertureWrite p addr true value) s = .next s) ∧
    (∀ i : Fin 4, addr % 64 = 4 * i.val →
      exec (.apertureWrite p addr true value) s = .next
        { s with ports := s.ports.set p { s.ports[p] with staging := s.ports[p].staging.set i value } }) ∧
    (addr % 64 = 0x10 → exec (.apertureWrite p addr true value) s = exec (.post p value) s) ∧
    (addr % 64 = 0x14 → exec (.apertureWrite p addr true value) s = exec (.pop p value) s) ∧
    (addr % 64 = 0x18 → exec (.apertureWrite p addr true value) s = exec (.renewal p value) s) ∧
    (addr % 64 = 0x20 → exec (.apertureWrite p addr true value) s = exec (.apertureStatusWrite p value) s) ∧
    (addr % 64 = 0x24 → exec (.apertureWrite p addr true value) s = exec (.flagWordWrite p value) s) ∧
    (addr % 64 = 0x28 → exec (.apertureWrite p addr true value) s = exec (.enableWordWrite p value) s) ∧
    (addr % 64 = 0x1C ∨ addr % 64 = 0x2C ∨ 0x30 ≤ addr % 64 → exec (.apertureWrite p addr true value) s = .next s)

/-- R125, R169, R177, R186, R187: what the aperture reads at each offset below the completion window, field by field; reserved
bits, the write-only words, the unused offset, narrow reads and unaligned ones read zero (a read is a function of the state, no
command: notes/assumptions/11.md). -/
def Obligations.ApertureWordsRead : Prop :=
  ∀ (s : State) (p : PortId) (addr : Nat),
    s.apertureRead p addr false = 0 ∧
    (addr % 4 ≠ 0 ∨ addr % 64 = 0x10 ∨ addr % 64 = 0x14 ∨ addr % 64 = 0x18 ∨ addr % 64 = 0x2C →
      s.apertureRead p addr true = 0) ∧
    (∀ i : Fin 4, addr % 64 = 4 * i.val → s.apertureRead p addr true = s.ports[p].staging[i]) ∧
    (addr % 64 = 0x1C →
      (s.apertureRead p addr true).getLsbD 12 = s.ports[p].renewIgnored ∧
      (s.apertureRead p addr true).extractLsb' 13 3 = 0 ∧
      match s.ports[p].state with
      | .detached | .fenced =>
        (s.apertureRead p addr true).extractLsb' 0 12 = 0 ∧ (s.apertureRead p addr true).extractLsb' 16 16 = 0
      | .attached b | .stalled b _ =>
        (s.apertureRead p addr true).extractLsb' 0 3 =
          (match b.lease.phase with | .fresh => 1 | .closed => 2 | .opened => 3 | .frozen => 4) ∧
        (s.apertureRead p addr true).getLsbD 3 = b.lease.warned ∧
        (s.apertureRead p addr true).extractLsb' 4 8 = b.lease.expected ∧
        (s.apertureRead p addr true).extractLsb' 16 16 = BitVec.ofNat 16 b.lease.remaining) ∧
    (addr % 64 = 0x20 →
      (s.apertureRead p addr true).extractLsb' 0 4 = BitVec.ofNat 4 (s.ports[p].outstanding % 8) ∧
      (s.apertureRead p addr true).extractLsb' 4 4 = BitVec.ofNat 4 (s.ports[p].completions.length % 8) ∧
      (s.apertureRead p addr true).extractLsb' 8 2 =
        (match s.ports[p].state with | .detached => 0 | .attached _ => 1 | .stalled _ _ => 2 | .fenced => 3) ∧
      (s.apertureRead p addr true).extractLsb' 10 6 =
        (match s.rights.role p with
          | .none => 0 | .supervisor => 1 | .standby => 2 | .offered => 3 | .standbyOffered => 4) ∧
      (s.apertureRead p addr true).getLsbD 16 = s.ports[p].postRefused ∧
      (s.apertureRead p addr true).getLsbD 17 = s.ports[p].renewIgnored ∧
      (s.apertureRead p addr true).extractLsb' 18 14 = 0) ∧
    (addr % 64 = 0x24 → s.apertureRead p addr true = 0#26 ++ s.ports[p].flags) ∧
    (addr % 64 = 0x28 → s.apertureRead p addr true = 0#26 ++ s.ports[p].enables)

/-- R176, R186, R189, R190: the completion window, at the offsets 0x30 to 0x3C of every 64 bytes, reads the head completion
record: word 0 its tag, code, status, whether a result is present, and valid; words 1 to 3 the result of its command; all zero
when the queue is empty. -/
def Obligations.CompletionWindowRead : Prop :=
  ∀ (s : State) (p : PortId) (a0 a1 a2 a3 : Nat),
    a0 % 64 = 0x30 → a1 % 64 = 0x34 → a2 % 64 = 0x38 → a3 % 64 = 0x3C →
    (s.ports[p].completions = [] →
      s.apertureRead p a0 true = 0 ∧ s.apertureRead p a1 true = 0 ∧ s.apertureRead p a2 true = 0 ∧
        s.apertureRead p a3 true = 0) ∧
    ∀ c rest, s.ports[p].completions = c :: rest →
      s.apertureRead p a0 true =
        1#1 ++ 0#10 ++ BitVec.ofBool c.result.isSome ++
          (match c.status with
            | .ok => 0#4 | .notSupervisor => 1#4 | .badArgument => 2#4 | .slotBusy => 3#4 | .portBusy => 4#4
            | .queueFull => 5#4 | .stale => 6#4 | .aborted => 7#4 | .failedMemory => 8#4 | .badDescriptor => 9#4
            | .cancelled => 10#4 | .noEffect => 11#4) ++ c.code ++ c.tag ∧
      (∀ w1 w2 w3 : Word,
        (match c.result with
          | none => w1 = 0 ∧ w2 = 0 ∧ w3 = 0
          | some (.pagesDone n) => w1 = BitVec.ofNat 32 (n % 512) ∧ w2 = 0 ∧ w3 = 0
          | some (.abortedNumber n) => w1 = BitVec.ofNat 32 (n % 16) ∧ w2 = 0 ∧ w3 = 0
          | some (.commit swapped) => w1 = 0#31 ++ BitVec.ofBool swapped ∧ w2 = 0 ∧ w3 = 0
          | some (.action a) =>
            w1 = (match a with | .retry => 0 | .skip => 1 | .fence => 2) ∧ w2 = 0 ∧ w3 = 0
          | some (.page x) =>
            w1 = 0#2 ++ (match x.staged.rights with | .none => 0#2 | .ro => 1#2 | .rw => 3#2) ++ x.staged.frame ++ 0#2 ++
              (match x.live.rights with | .none => 0#2 | .ro => 1#2 | .rw => 3#2) ++ x.live.frame ∧
            (match x.condition with
              | .clean => w2 = 0
              | .dirty => w2 = 1
              | .sealed d =>
                w2.extractLsb' 0 2 = 2 ∧ w2.extractLsb' 3 3 = BitVec.ofNat 3 d.issuer.port.val ∧
                w2.extractLsb' 6 8 = d.issuer.tag ∧ w2.extractLsb' 20 12 = 0 ∧
                match d.boundary with
                | .drain => w2.getLsbD 2 = false ∧ w2.extractLsb' 14 6 = 0
                | .mark waiting => w2.getLsbD 2 = true ∧ ∀ q : PortId, w2.getLsbD (14 + q.val) = decide (q ∈ waiting)) ∧
            w3 = 0#18 ++ BitVec.ofNat 6 x.inFlight ++ BitVec.ofNat 3 x.binders ++ BitVec.ofBool x.running ++
              BitVec.ofNat 4 x.jobs
          | some (.fault none) => w1 = 0 ∧ w2 = 0 ∧ w3 = 0
          | some (.fault (some f)) =>
            w2 = f.stamp ∧
            match f.body with
            | .access kind slot page access tag =>
              w1 = 1#1 ++ 0#3 ++ tag ++ BitVec.ofNat 3 f.port.val ++ 0#1 ++ f.seq ∧
              w3 = 0#4 ++ BitVec.ofNat 8 page.val ++ BitVec.ofNat 4 slot.val ++
                (match access with | .read => 0#1 | .write => 1#1) ++
                (match kind with
                  | .noEntry => 0#2 ++ 0#1 ++ 0#12
                  | .writeDenied frame => 1#2 ++ 1#1 ++ frame
                  | .frameRange frame => 2#2 ++ 1#1 ++ frame)
            | .lease kind loss =>
              w1 = 1#1 ++ 0#11 ++ BitVec.ofNat 3 f.port.val ++ 1#1 ++ f.seq ∧
              w3 = 0#25 ++
                (match loss with
                  | .kept => 0#5
                  | .lost none => 0#3 ++ 0#1 ++ 1#1
                  | .lost (some q) => BitVec.ofNat 3 q.val ++ 1#1 ++ 1#1) ++
                (match kind with | .expired => 0#2 | .early => 1#2 | .sequence => 2#2)) →
        s.apertureRead p a1 true = w1 ∧ s.apertureRead p a2 true = w2 ∧ s.apertureRead p a3 true = w3)

/-! ## The taking of commands -/

/-- R159, R172, R173: a supervisor-only command taken from a port without rights completes NOT_SUPERVISOR, before any argument is
examined, and changes nothing but its port's queues and COMPLETION flag. -/
def Obligations.WithoutRightsRefused : Prop :=
  ∀ (s : State) (p : PortId) (r : CommandRecord) (c : Command) (rest : List CommandRecord) (i : Instr)
    (first : List PortId),
    s.Heads p r c rest → c.NeedsRights → s.rights.holder ≠ some p → i ∈ c.rows p first →
    exec i s = .next (s.completed p r rest .notSupervisor)

/-- R173, R188: a code that names no command completes BAD_ARGUMENT from any port, with the code as written. A row of the table
takes only a record that is its own: with an empty queue or another record at the head nothing comes about (the model's reading
of the table's rows, notes/assumptions/6.md). -/
def Obligations.UnknownCodeRefused : Prop :=
  ∀ (s : State) (p : PortId) (first : List PortId),
    (∀ (r : CommandRecord) (c : Command) (rest : List CommandRecord), s.Heads p r c rest →
      (c = .unknown → exec (.unknownCommand p) s = .next (s.completed p r rest .badArgument)) ∧
      ∀ i ∈ takingRows p first, i ∉ c.rows p first → exec i s = .next s) ∧
    (s.ports[p].commands = [] → ∀ i ∈ takingRows p first, exec i s = .next s)

/-- R2, R10, R11, R12, R13: on a slot that is neither SEALED nor load-held, PUT_ENTRY writes the staged entry with the frame as
given and CLEAR empties the staged image, each making the slot DIRTY; DISCARD of a DIRTY slot sets the staged image to the live
one and makes it CLEAN, and of a CLEAN slot completes NO_EFFECT. -/
def Obligations.EditsCarriedOut : Prop :=
  ∀ (s : State) (p : PortId) (r : CommandRecord) (rest : List CommandRecord) (n : SlotId) (slot : Byte),
    s.rights.holder = some p → slot.toNat = n.val → ¬ s.SealedAt n → ¬ s.LoadHeldAt n →
    (∀ (page : Byte) (frame : Frame) (code : BitVec 2) (pg : Page) (g : Rights),
      s.Heads p r (.putEntry slot page frame code) rest → page.toNat = pg.val →
      (code = 0 ∧ g = .none ∨ code = 1 ∧ g = .ro ∨ code = 3 ∧ g = .rw) →
      exec (.putEntry p) s = .next
        (State.joined
          { s.taken p rest with
            slots := s.slots.set n
              { s.slots[n] with
                staged := s.slots[n].staged.set pg { frame := frame, rights := g }, condition := .dirty } } p
          (r.completion .ok))) ∧
    (s.Heads p r (.clear slot) rest →
      exec (.clear p) s = .next
        (State.joined
          { s.taken p rest with
            slots := s.slots.set n
              { s.slots[n] with
                staged := Vector.replicate 256 { frame := 0, rights := .none }, condition := .dirty } } p
          (r.completion .ok))) ∧
    (s.Heads p r (.discard slot) rest →
      (s.slots[n].condition = .dirty →
        exec (.discard p) s = .next
          (State.joined
            { s.taken p rest with
              slots := s.slots.set n { s.slots[n] with staged := s.slots[n].live, condition := .clean } } p
            (r.completion .ok))) ∧
      (s.slots[n].condition = .clean → exec (.discard p) s = .next (s.completed p r rest .noEffect)))

/-- R10: PUT_ENTRY, CLEAR and DISCARD complete BAD_ARGUMENT when the slot, or the rights code of a PUT_ENTRY, is out of range, and
otherwise SLOT_BUSY on a slot that is SEALED or load-held; they then change nothing. -/
def Obligations.EditsRefused : Prop :=
  ∀ (s : State) (p : PortId) (r : CommandRecord) (rest : List CommandRecord) (slot page : Byte) (frame : Frame)
    (code : BitVec 2) (c : Command),
    s.rights.holder = some p → s.Heads p r c rest →
    (c = .putEntry slot page frame code ∨ c = .clear slot ∨ c = .discard slot) →
    ∀ i ∈ c.rows p [],
      (16 ≤ slot.toNat ∨ c = .putEntry slot page frame 2 → exec i s = .next (s.completed p r rest .badArgument)) ∧
      ∀ n : SlotId, slot.toNat = n.val → c ≠ .putEntry slot page frame 2 → (s.SealedAt n ∨ s.LoadHeldAt n) →
        exec i s = .next (s.completed p r rest .slotBusy)

/-- R62, R63, R65, R173: a LOAD passes its tests in order (ranges, SEALED slot, full queue) and completes at once with the status
of the first that fails; otherwise its job joins the tail of the load queue, and starts at once when the queue was empty. -/
def Obligations.LoadAcceptedOrRefused : Prop :=
  ∀ (s : State) (p : PortId) (r : CommandRecord) (rest : List CommandRecord) (slot first : Byte) (count : BitVec 9)
    (addr : BitVec 24) (n : SlotId) (page : Page),
    s.rights.holder = some p → s.Heads p r (.load slot first count addr) rest →
    (16 ≤ slot.toNat ∨ ¬ LoadInRange s.memsize first count addr →
      exec (.load p) s = .next (s.completed p r rest .badArgument)) ∧
    (slot.toNat = n.val → LoadInRange s.memsize first count addr → s.SealedAt n →
      exec (.load p) s = .next (s.completed p r rest .slotBusy)) ∧
    (slot.toNat = n.val → LoadInRange s.memsize first count addr → ¬ s.SealedAt n → 8 ≤ s.jobs.length →
      exec (.load p) s = .next (s.completed p r rest .queueFull)) ∧
    (slot.toNat = n.val → first.toNat = page.val → LoadInRange s.memsize first count addr → ¬ s.SealedAt n →
      (s.jobs = [] →
        exec (.load p) s = .next
          { s.taken p rest with
            jobs :=
              [{ slot := n, first := page, count := count.toNat, addr := addr, issuer := { port := p, tag := r.tag }
                 owed := true, state := .running 0 .requested }] }) ∧
      ∀ (j : Job) (behind : List Job), s.Runs j behind → j.state ≠ .queued → behind.length < 7 →
        exec (.load p) s = .next
          { s.taken p rest with
            jobs := j :: behind ++
              [{ slot := n, first := page, count := count.toNat, addr := addr, issuer := { port := p, tag := r.tag }
                 owed := true, state := .queued }] })

/-- R70, R71, R72: ABORT_LOAD ends each QUEUED job of the slot with 0 pages done and a RUNNING one whose read is REQUESTED with its
pages done, marks a RUNNING one whose read is OUTSTANDING, and counts them; the ABORTED completions join in queue order, then
its own with the number; with none to take it completes NO_EFFECT. -/
def Obligations.AbortLoadSweepsQueue : Prop :=
  ∀ (s : State) (p : PortId) (r : CommandRecord) (rest : List CommandRecord) (slot : Byte) (n : SlotId),
    s.rights.holder = some p → s.Heads p r (.abortLoad slot) rest →
    (16 ≤ slot.toNat → exec (.abortLoad p) s = .next (s.completed p r rest .badArgument)) ∧
    (slot.toNat = n.val →
      (s.jobs = [] → exec (.abortLoad p) s = .next (s.completed p r rest .noEffect)) ∧
      ∀ (j : Job) (behind named others : List Job) (done : Nat) (read : ReadState),
        s.Runs j behind → j.state = .running done read → named = behind.filter (·.slot = n) →
        others = behind.filter (·.slot ≠ n) →
        ((j.slot ≠ n ∨ read = .outstanding true) →
          (named = [] → exec (.abortLoad p) s = .next (s.completed p r rest .noEffect)) ∧
          (named ≠ [] →
            exec (.abortLoad p) s = .next
              (State.joined
                (named.foldl (fun u k => u.loadCompleted k .aborted 0) { s.taken p rest with jobs := j :: others }) p
                (r.completion .ok (some (.abortedNumber named.length)))))) ∧
        (j.slot = n → read = .requested →
          exec (.abortLoad p) s = .next
            (State.joined
              (named.foldl (fun u k => u.loadCompleted k .aborted 0)
                (State.loadCompleted { s.taken p rest with jobs := started others } j .aborted done)) p
              (r.completion .ok (some (.abortedNumber (named.length + 1)))))) ∧
        (j.slot = n → read = .outstanding false →
          exec (.abortLoad p) s = .next
            (State.joined
              (named.foldl (fun u k => u.loadCompleted k .aborted 0)
                { s.taken p rest with jobs := { j with state := .running done (.outstanding true) } :: others }) p
              (r.completion .ok (some (.abortedNumber (named.length + 1)))))))

/-- R81, R82, R83, R85, R89: COMMIT passes its tests in order; a CLEAN slot completes "no change"; a DIRTY one is SEALED with the
boundary, the issuer and, for MARK, the ATTACHED ports bound to it, and swaps at once, completing "swapped", when the boundary is
reached already, with the head accesses of the ATTACHED ports bound to it translated when that is DRAIN, in any order of their
ports (the operand `first`, the model's choice, notes/assumptions/16.md); otherwise the COMMIT stays in progress. -/
def Obligations.CommitSealsOrRefuses : Prop :=
  ∀ (s : State) (p : PortId) (r : CommandRecord) (rest : List CommandRecord) (slot : Byte) (code : BitVec 2) (n : SlotId)
    (boundary : Boundary) (first : List PortId),
    s.rights.holder = some p → s.Heads p r (.commit slot code) rest →
    (16 ≤ slot.toNat ∨ code = 2 ∨ code = 3 → exec (.commit p first) s = .next (s.completed p r rest .badArgument)) ∧
    (slot.toNat = n.val →
      (code = 0 ∧ boundary = .drain ∨
        code = 1 ∧ boundary = .mark
          ((List.finRange 6).filter fun q => s.ports[q].state.isAttached && s.ports[q].state.boundSlot? = some n)) →
      (s.SealedAt n ∨ s.LoadHeldAt n → exec (.commit p first) s = .next (s.completed p r rest .slotBusy)) ∧
      (¬ s.LoadHeldAt n → s.slots[n].condition = .clean →
        exec (.commit p first) s = .next (s.completed p r rest .ok (some (.commit false)))) ∧
      (¬ s.LoadHeldAt n → s.slots[n].condition = .dirty →
        (boundary = .drain → s.slots[n].inFlight = 0 →
          exec (.commit p first) s = .next
            ((((s.taken p rest).imageSwapped n).released n first).joined p (r.completion .ok (some (.commit true))))) ∧
        (boundary = .mark [] →
          exec (.commit p first) s = .next
            (((s.taken p rest).imageSwapped n).joined p (r.completion .ok (some (.commit true))))) ∧
        (boundary = .drain ∧ s.slots[n].inFlight ≠ 0 ∨ (∃ q others, boundary = .mark (q :: others)) →
          exec (.commit p first) s = .next
            { s.taken p rest with
              slots := s.slots.set n
                { s.slots[n] with
                  condition := .sealed
                    { boundary := boundary, issuer := { port := p, tag := r.tag }, owed := true } } })))

/-- R27, R91, R92: CANCEL_COMMIT makes a SEALED slot DIRTY with both images as they were; when the seal was a DRAIN, the head
accesses it held are translated through the unchanged live image, in any order of their ports (notes/assumptions/16.md); the
COMMIT's completion CANCELLED joins its issuer if owed, then the command's own OK; a slot that is not SEALED completes STALE. -/
def Obligations.CancelCommitUnseals : Prop :=
  ∀ (s : State) (p : PortId) (r : CommandRecord) (rest : List CommandRecord) (slot : Byte) (n : SlotId)
    (first : List PortId),
    s.rights.holder = some p → s.Heads p r (.cancelCommit slot) rest →
    (16 ≤ slot.toNat → exec (.cancelCommit p first) s = .next (s.completed p r rest .badArgument)) ∧
    (slot.toNat = n.val →
      (¬ s.SealedAt n → exec (.cancelCommit p first) s = .next (s.completed p r rest .stale)) ∧
      ∀ (c : PendingCommit) (t : State), s.slots[n].condition = .sealed c →
        t = { s.taken p rest with slots := s.slots.set n { s.slots[n] with condition := .dirty } } →
        (c.boundary = .drain →
          exec (.cancelCommit p first) s = .next
            (((t.released n first).commitCompleted c .cancelled none).joined p (r.completion .ok))) ∧
        ((∃ waiting, c.boundary = .mark waiting) →
          exec (.cancelCommit p first) s = .next ((t.commitCompleted c .cancelled none).joined p (r.completion .ok))))

/-- R88: SYNC of a member of the waiting set of its bound slot takes it out, with the swap before the SYNC's own completion when
the set is then empty, and completes OK; from any other port it completes NO_EFFECT and changes nothing. -/
def Obligations.SyncLeavesWaitingSet : Prop :=
  ∀ (s : State) (p : PortId) (r : CommandRecord) (rest : List CommandRecord), s.Heads p r .sync rest →
    (∀ (b : Binding) (c : PendingCommit) (waiting : List PortId), s.ports[p].state = .attached b →
      s.slots[b.slot].condition = .sealed c → c.boundary = .mark waiting → p ∈ waiting →
      ((∃ q ∈ waiting, q ≠ p) →
        exec (.sync p) s = .next
          (State.joined
            { s.taken p rest with
              slots := s.slots.set b.slot
                { s.slots[b.slot] with
                  condition := .sealed { c with boundary := .mark (waiting.filter (· ≠ p)) } } } p
            (r.completion .ok))) ∧
      ((∀ q ∈ waiting, q = p) →
        exec (.sync p) s = .next (((s.taken p rest).markSwapped b.slot c).joined p (r.completion .ok)))) ∧
    ((∀ (b : Binding) (c : PendingCommit) (waiting : List PortId), s.ports[p].state.binding? = some b →
        s.slots[b.slot].condition = .sealed c → c.boundary = .mark waiting → p ∉ waiting) →
      exec (.sync p) s = .next (s.completed p r rest .noEffect))

/-- R9, R16, R17: CHECK_PAGE reports the page and the slot as they stand to the supervisor, and to a port whose own binding names
the slot; to any other it completes NOT_SUPERVISOR, and with a slot out of range BAD_ARGUMENT. -/
def Obligations.CheckPageReports : Prop :=
  ∀ (s : State) (p : PortId) (r : CommandRecord) (rest : List CommandRecord) (slot page : Byte) (n : SlotId) (pg : Page)
    (running : Bool),
    s.Heads p r (.checkPage slot page) rest →
    (16 ≤ slot.toNat → exec (.checkPage p) s = .next (s.completed p r rest .badArgument)) ∧
    (slot.toNat = n.val → page.toNat = pg.val →
      (running = true ↔ ∃ j behind done read, s.jobs = j :: behind ∧ j.state = .running done read ∧ j.slot = n) →
      (s.rights.holder = some p ∨ (∃ b, s.ports[p].state.binding? = some b ∧ b.slot = n) →
        exec (.checkPage p) s = .next
          (s.completed p r rest .ok
            (some
              (.page
                { live := s.slots[n].live[pg], staged := s.slots[n].staged[pg], condition := s.slots[n].condition
                  jobs := (s.jobs.filter (·.slot = n)).length, running := running, binders := s.slots[n].binders
                  inFlight := s.slots[n].inFlight })))) ∧
      (s.rights.holder ≠ some p → (∀ b, s.ports[p].state.binding? = some b → b.slot ≠ n) →
        exec (.checkPage p) s = .next (s.completed p r rest .notSupervisor)))

/-- R27, R105, R106, R107, R108, R109: BIND of a DETACHED port binds it with a FRESH lease under its parameters; of an ATTACHED port
it moves the binding with the lease as it was, out of the old slot's waiting set, or, out of its DRAIN hold, with the head access
translated through the new slot within the BIND (the model's reading, notes/assumptions/5.md); UNBIND of an ATTACHED port removes
the binding and answers none of its accesses itself. The refusals and NO_EFFECT change nothing. -/
def Obligations.BindAndUnbind : Prop :=
  ∀ (s : State) (p : PortId) (r : CommandRecord) (rest : List CommandRecord) (port slot : Byte) (q : PortId) (n : SlotId),
    s.rights.holder = some p →
    (s.Heads p r (.bind port slot) rest →
      (6 ≤ port.toNat ∨ 16 ≤ slot.toNat → exec (.bind p) s = .next (s.completed p r rest .badArgument)) ∧
      (port.toNat = q.val → slot.toNat = n.val →
        ((∃ b st, s.ports[q].state = .stalled b st) ∨ s.ports[q].state = .fenced →
          exec (.bind p) s = .next (s.completed p r rest .portBusy)) ∧
        (s.ports[q].state = .detached →
          exec (.bind p) s = .next
            (State.joined
              { s.taken p rest with
                ports := (s.taken p rest).ports.set q
                  { (s.taken p rest).ports[q] with
                    state := .attached
                      { slot := n
                        lease := { phase := .fresh, remaining := s.ports[q].params.period, expected := 0, warned := false } } }
                slots := s.slots.set n { s.slots[n] with binders := s.slots[n].binders + 1 } } p (r.completion .ok))) ∧
        ∀ b : Binding, s.ports[q].state = .attached b →
          (b.slot = n → exec (.bind p) s = .next (s.completed p r rest .noEffect)) ∧
          (b.slot ≠ n → ∀ t : State,
            t = { s.taken p rest with
                  ports := (s.taken p rest).ports.set q
                    { (s.taken p rest).ports[q] with state := .attached { slot := n, lease := b.lease } }
                  slots := (s.slots.set b.slot { s.slots[b.slot] with binders := s.slots[b.slot].binders - 1 }).set n
                    { s.slots[n] with binders := s.slots[n].binders + 1 } } →
            (¬ s.DrainHeld b.slot →
              exec (.bind p) s = .next ((t.leaveWaiting q b.slot).joined p (r.completion .ok))) ∧
            (s.DrainHeld b.slot → exec (.bind p) s = .next ((t.translated q).joined p (r.completion .ok)))))) ∧
    (s.Heads p r (.unbind port) rest →
      (6 ≤ port.toNat → exec (.unbind p) s = .next (s.completed p r rest .badArgument)) ∧
      (port.toNat = q.val →
        ((∃ b st, s.ports[q].state = .stalled b st) → exec (.unbind p) s = .next (s.completed p r rest .portBusy)) ∧
        (s.ports[q].state = .detached ∨ s.ports[q].state = .fenced →
          exec (.unbind p) s = .next (s.completed p r rest .noEffect)) ∧
        ∀ b : Binding, s.ports[q].state = .attached b →
          exec (.unbind p) s = .next
            (State.joined
              (State.leaveWaiting
                { s.taken p rest with
                  ports := (s.taken p rest).ports.set q { (s.taken p rest).ports[q] with state := .detached }
                  slots := s.slots.set b.slot { s.slots[b.slot] with binders := s.slots[b.slot].binders - 1 } } q b.slot) p
              (r.completion .ok))))

/-- R129, R178: SET_LEASE gives a port that is not bound its period and fraction, and CONFIGURE sets MEMSIZE and the stall limit
while no port is bound, each after its range test; an ATTACHED or STALLED port makes them PORT_BUSY; refused they change
nothing. -/
def Obligations.ParametersSet : Prop :=
  ∀ (s : State) (p : PortId) (r : CommandRecord) (rest : List CommandRecord), s.rights.holder = some p →
    (∀ (port : Byte) (code : BitVec 2) (period : BitVec 16), s.Heads p r (.setLease port code period) rest →
      (6 ≤ port.toNat ∨ period.toNat < 64 ∨ code = 3 →
        exec (.setLease p) s = .next (s.completed p r rest .badArgument)) ∧
      ∀ (q : PortId) (fraction : Fraction), port.toNat = q.val → 64 ≤ period.toNat →
        (code = 0 ∧ fraction = .zero ∨ code = 1 ∧ fraction = .quarter ∨ code = 2 ∧ fraction = .half) →
        (s.ports[q].state.isBound = true → exec (.setLease p) s = .next (s.completed p r rest .portBusy)) ∧
        (s.ports[q].state.isBound = false →
          exec (.setLease p) s = .next
            (State.joined
              { s.taken p rest with
                ports := (s.taken p rest).ports.set q
                  { (s.taken p rest).ports[q] with params := { period := period.toNat, fraction := fraction } } } p
              (r.completion .ok)))) ∧
    ∀ (memsize : BitVec 13) (limit : BitVec 16), s.Heads p r (.configure memsize limit) rest →
      (memsize.toNat < 1 ∨ 4096 < memsize.toNat ∨ (limit.toNat ≠ 0 ∧ limit.toNat < 16) →
        exec (.configure p) s = .next (s.completed p r rest .badArgument)) ∧
      (1 ≤ memsize.toNat → memsize.toNat ≤ 4096 → (limit.toNat = 0 ∨ 16 ≤ limit.toNat) →
        ((∃ q : PortId, s.ports[q].state.isBound = true) →
          exec (.configure p) s = .next (s.completed p r rest .portBusy)) ∧
        ((∀ q : PortId, s.ports[q].state.isBound = false) →
          exec (.configure p) s = .next
            (State.joined { s.taken p rest with memsize := memsize.toNat, stallLimit := limit.toNat } p
              (r.completion .ok))))

/-- R127, R130, R131: FENCE of a port that is not FENCED has it enter FENCED without a LEASE record; UNFENCE of a FENCED port makes
it DETACHED and retires its LEASE record; otherwise they complete NO_EFFECT, and BAD_ARGUMENT outside ports 0 to 5. -/
def Obligations.FenceAndUnfence : Prop :=
  ∀ (s : State) (p : PortId) (r : CommandRecord) (rest : List CommandRecord) (port : Byte) (q : PortId),
    s.rights.holder = some p →
    (s.Heads p r (.fence port) rest →
      (6 ≤ port.toNat → exec (.fence p) s = .next (s.completed p r rest .badArgument)) ∧
      (port.toNat = q.val →
        (s.ports[q].state = .fenced → exec (.fence p) s = .next (s.completed p r rest .noEffect)) ∧
        (s.ports[q].state ≠ .fenced →
          exec (.fence p) s = .next (((s.taken p rest).enterFenced q none).joined p (r.completion .ok))))) ∧
    (s.Heads p r (.unfence port) rest →
      (6 ≤ port.toNat → exec (.unfence p) s = .next (s.completed p r rest .badArgument)) ∧
      (port.toNat = q.val →
        (s.ports[q].state ≠ .fenced → exec (.unfence p) s = .next (s.completed p r rest .noEffect)) ∧
        (s.ports[q].state = .fenced →
          exec (.unfence p) s = .next
            (State.joined
              { s.taken p rest with
                faults := s.faults.filter fun f => f.body.isAccess || f.port ≠ q
                ports := (s.taken p rest).ports.set q { (s.taken p rest).ports[q] with state := .detached } } p
              (r.completion .ok)))))

/-- R27, R147, R148, R149, R150: RESOLVE acts on the STALLED port whose ACCESS record holds the number. RETRY makes the stalled
access UNTRANSLATED again and SKIP answers it ERR_DENIED, the record retiring and the port being ATTACHED with its binding and a
FRESH lease, and its head access, after RETRY the retried one, is then translated; FENCE has the port enter FENCED. A number no
ACCESS record holds completes STALE, an action that is none of the three BAD_ARGUMENT (in whichever of the three rows takes it,
notes/assumptions/7.md). -/
def Obligations.ResolveActs : Prop :=
  ∀ (s : State) (p : PortId) (r : CommandRecord) (rest : List CommandRecord) (seq : BitVec 16) (code : BitVec 2),
    s.rights.holder = some p → s.Heads p r (.resolve seq code) rest →
    (code = 3 → ∀ i ∈ (Command.resolve seq code).rows p [], exec i s = .next (s.completed p r rest .badArgument)) ∧
    (code ≠ 3 → (∀ f ∈ s.faults, f.body.isAccess = true → f.seq ≠ seq) →
      ∀ i ∈ (Command.resolve seq code).rows p [], exec i s = .next (s.completed p r rest .stale)) ∧
    ∀ (f : FaultRecord) (q : PortId) (b : Binding) (st : Stall) (a : Access),
      f ∈ s.faults → f.body.isAccess = true → f.seq = seq → f.port = q → (∀ g ∈ s.faults, g.seq = seq → g = f) →
      s.ports[q].state = .stalled b st → s.ports[q].slots[st.access] = some { access := a, state := .stalled } →
      (∀ (i : Instr) (x : AccessSlot) (action : Action),
        (code = 0 ∧ i = .resolveRetry p ∧ action = .retry ∧ x = { access := a, state := .untranslated } ∨
          code = 1 ∧ i = .resolveSkip p ∧ action = .skip ∧ x = answeredSlot a .errDenied) →
        exec i s = .next
          (State.joined (State.translated
            { s.taken p rest with
              faults := s.faultsWithoutAccess q
              ports := (s.taken p rest).ports.set q
                { (s.taken p rest).ports[q] with
                  slots := s.ports[q].slots.set st.access (some x)
                  state := .attached
                    { slot := b.slot
                      lease :=
                        { phase := .fresh, remaining := s.ports[q].params.period, expected := b.lease.expected
                          warned := false } } } } q) p (r.completion .ok (some (.action action))))) ∧
      (code = 2 →
        exec (.resolveFence p) s = .next
          (((s.taken p rest).enterFenced q none).joined p (r.completion .ok (some (.action .fence)))))

/-- R146: READ_FAULT returns the record at position k of the fault queue, or NONE, and changes nothing; a k above 11 completes
BAD_ARGUMENT, and from a port without rights any k NOT_SUPERVISOR. -/
def Obligations.ReadFaultReturns : Prop :=
  ∀ (s : State) (p : PortId) (r : CommandRecord) (rest : List CommandRecord) (k : Byte),
    s.Heads p r (.readFault k) rest →
    (s.rights.holder ≠ some p → exec (.readFault p) s = .next (s.completed p r rest .notSupervisor)) ∧
    (s.rights.holder = some p → 12 ≤ k.toNat → exec (.readFault p) s = .next (s.completed p r rest .badArgument)) ∧
    (s.rights.holder = some p → k.toNat < 12 →
      (∀ older f younger, s.faults = older ++ f :: younger → older.length = k.toNat →
        exec (.readFault p) s = .next (s.completed p r rest .ok (some (.fault (some f))))) ∧
      (s.faults.length ≤ k.toNat → exec (.readFault p) s = .next (s.completed p r rest .ok (some (.fault none)))))

/-! ## Supervisor rights -/

/-- R158, R160, R162: HANDOVER makes a port that is neither the supervisor nor FENCED the OFFERED one in place of any other;
SET_STANDBY names a port that is neither, or none, the standby; ROLE is set on every port whose role that changes. -/
def Obligations.StandbyAndHandover : Prop :=
  ∀ (s : State) (p : PortId) (r : CommandRecord) (rest : List CommandRecord) (port : Byte), s.rights.holder = some p →
    (s.Heads p r (.setStandby port) rest →
      (6 ≤ port.toNat → port ≠ 0xFF → exec (.setStandby p) s = .next (s.completed p r rest .badArgument)) ∧
      ∀ b : Option PortId, (port = 0xFF ∧ b = none ∨ ∃ q, port.toNat = q.val ∧ b = some q) →
        (b = some p → exec (.setStandby p) s = .next (s.completed p r rest .badArgument)) ∧
        ((∃ q : PortId, b = some q ∧ q ≠ p ∧ s.ports[q].state = .fenced) →
          exec (.setStandby p) s = .next (s.completed p r rest .portBusy)) ∧
        (b ≠ some p → (∀ q : PortId, b = some q → s.ports[q].state ≠ .fenced) →
          (b = s.rights.standby → exec (.setStandby p) s = .next (s.completed p r rest .noEffect)) ∧
          (b ≠ s.rights.standby →
            exec (.setStandby p) s = .next
              (((s.taken p rest).rightsMoved { s.rights with standby := b }).joined p (r.completion .ok))))) ∧
    (s.Heads p r (.handover port) rest →
      (6 ≤ port.toNat → exec (.handover p) s = .next (s.completed p r rest .badArgument)) ∧
      ∀ q : PortId, port.toNat = q.val →
        (q = p ∨ s.ports[q].state = .fenced → exec (.handover p) s = .next (s.completed p r rest .badArgument)) ∧
        (q ≠ p → s.ports[q].state ≠ .fenced →
          (s.rights.offer = some q → exec (.handover p) s = .next (s.completed p r rest .noEffect)) ∧
          (s.rights.offer ≠ some q →
            exec (.handover p) s = .next
              (((s.taken p rest).rightsMoved { s.rights with offer := some q }).joined p (r.completion .ok)))))

/-- R158, R161, R165: ACCEPT from the OFFERED port gives it rights with origin HANDOVER and ends the offer, and from any other
completes STALE. CLAIM from an ATTACHED port takes rights no port holds with origin CLAIM; it completes PORT_BUSY from another,
STALE while a claimer holds rights, NOT_SUPERVISOR while any other supervisor does. -/
def Obligations.AcceptAndClaim : Prop :=
  ∀ (s : State) (p : PortId) (r : CommandRecord) (rest : List CommandRecord),
    (s.Heads p r .accept rest →
      (s.rights.offer ≠ some p → exec (.accept p) s = .next (s.completed p r rest .stale)) ∧
      (s.rights.offer = some p →
        exec (.accept p) s = .next
          (State.joined
            ((s.taken p rest).rightsMoved
              { supervisor := some (p, .handover)
                standby := if s.rights.standby = some p then none else s.rights.standby
                offer := none }) p (r.completion .ok)))) ∧
    (s.Heads p r .claim rest →
      (∀ q o, s.rights.supervisor = some (q, o) →
        (o = .claim → exec (.claim p) s = .next (s.completed p r rest .stale)) ∧
        (o ≠ .claim → exec (.claim p) s = .next (s.completed p r rest .notSupervisor))) ∧
      (s.rights.supervisor = none →
        ((∀ b, s.ports[p].state ≠ .attached b) → exec (.claim p) s = .next (s.completed p r rest .portBusy)) ∧
        ((∃ b, s.ports[p].state = .attached b) →
          exec (.claim p) s = .next
            (State.joined
              ((s.taken p rest).rightsMoved
                { supervisor := some (p, .claim)
                  standby := if s.rights.standby = some p then none else s.rights.standby
                  offer := s.rights.offer }) p (r.completion .ok)))))

/-- R158: the ROLE flag of a port is set by whatever changes its role, but for a reset of that port or of the hub. -/
def Obligations.RoleChangesRaiseFlag : Prop :=
  ∀ (i : Instr) (s t : State) (q : PortId), exec i s = .next t → i ≠ .portReset q → i ≠ .deviceReset → i ≠ .powerUp →
    t.rights.role q ≠ s.rights.role q → t.ports[q].flags.getLsbD 4 = true

/-- R3, R15: outside a device reset a live image changes only by the swap, which makes the staged image live, leaves the staged
image as it was, and makes the slot CLEAN, which it was not before. -/
def Obligations.LiveImageChangesBySwap : Prop :=
  ∀ (i : Instr) (s t : State) (n : SlotId), exec i s = .next t → i ≠ .deviceReset → i ≠ .powerUp →
    t.slots[n].live ≠ s.slots[n].live →
    t.slots[n].live = s.slots[n].staged ∧ t.slots[n].staged = s.slots[n].staged ∧ t.slots[n].condition = .clean ∧
      s.slots[n].condition ≠ .clean

/-! ## Resets -/

/-- R20, R57, R75, R87, R89, R98, R111, R112, R113, R114, R115, R155, R158, R184: a port reset. The port is FENCED if it was, else
DETACHED; ISSUED slots are marked for discard and all others free; queues, staging, indications, flags and enables are empty; its
lease parameters stay; requests held off on its channel are then accepted as far as slots are free (the model's reading,
notes/assumptions/4.md). Its ACCESS record retires, its roles end, with ROLE set on the other ports whose role changes, and what
it issued goes on with its completion owed to no one. A member of a waiting set leaves it, and the last one brings the swap with
the COMMIT's completion at another issuer. Nothing else changes. -/
def Obligations.PortResetActs : Prop :=
  ∀ (s : State) (p : PortId),
    ∃ t, exec (.portReset p) s = .next t ∧
      (∃ slots,
        t.ports[p] = PortRec.acceptHeld
          { state := if s.ports[p].state = .fenced then .fenced else .detached
            params := s.ports[p].params, slots := slots, arrival := [], requests := s.ports[p].requests
            staging := Vector.replicate 4 0, commands := [], completions := [], outstanding := 0, postRefused := false
            renewIgnored := false, flags := 0, enables := 0 } ∧
        ∀ k : AccId, slots[k] =
          match s.ports[p].slots[k] with
          | some { access := a, state := .issued n _ } => some { access := a, state := .issued n true }
          | _ => none) ∧
      (∀ q : PortId, q ≠ p →
        t.ports[q] =
          { s.ports[q] with
            completions := s.ports[q].completions ++ s.swapCompletions p q
            flags := s.flagsAfterLoss p q }) ∧
      t.jobs = s.jobs.map (fun j => if j.issuer.port = p then { j with owed := false } else j) ∧
      (∀ n : SlotId,
        t.slots[n].staged = s.slots[n].staged ∧ t.slots[n].inFlight = s.slots[n].inFlight ∧
        t.slots[n].binders =
          (if s.ports[p].state.boundSlot? = some n then s.slots[n].binders - 1 else s.slots[n].binders) ∧
        (s.ports[p].state.boundSlot? = some n →
          ∀ c waiting, s.slots[n].condition = .sealed c → c.boundary = .mark waiting → p ∈ waiting →
            ((∀ q ∈ waiting, q = p) → t.slots[n].live = s.slots[n].staged ∧ t.slots[n].condition = .clean) ∧
            ((∃ q ∈ waiting, q ≠ p) → t.slots[n].live = s.slots[n].live ∧
              t.slots[n].condition = .sealed
                { c with
                  boundary := .mark (waiting.filter (· ≠ p))
                  owed := if c.issuer.port = p then false else c.owed })) ∧
        (s.ports[p].state.boundSlot? ≠ some n ∨ p ∉ s.slots[n].condition.waiting →
          t.slots[n].live = s.slots[n].live ∧
          t.slots[n].condition =
            match s.slots[n].condition with
            | .sealed c => .sealed (if c.issuer.port = p then { c with owed := false } else c)
            | .clean => .clean
            | .dirty => .dirty)) ∧
      t.faults = (if s.ports[p].state.isBound then s.faultsWithoutAccess p else s.faults) ∧
      t.rights = s.rolesEnded p ∧ t.mem = s.mem ∧ t.seqCounter = s.seqCounter ∧ t.stampCount = s.stampCount ∧
      t.memsize = s.memsize ∧ t.stallLimit = s.stallLimit ∧ t.sent = s.sent ∧ t.delivered = s.delivered ∧
      t.pending = s.pending

/-- R19, R24, R46, R59, R79, R101, R118, R136, R156, R168, R179, R185: what power-up and device reset leave. The device reset
advances the reset generation by one, and at power-up it is 0. That the model's own records of what has left the hub, and the
commands to come, stay through a device reset, that power-up empties those records and drops the requests held off and keeps the
commands to come, is the model's choice (notes/assumptions/12.md); that requests held off stay on the ports' channels through a
device reset, and are then accepted as far as slots are free, is its reading (notes/assumptions/4.md). -/
def Obligations.DeviceResetAndPowerUp : Prop :=
  ∀ s : State,
    (∃ t, exec .powerUp s = .next t ∧ t.mem.generation = 0 ∧ t.sent = [] ∧ t.delivered = [] ∧ t.pending = s.pending ∧
      t.InResetState fun _ => []) ∧
    ∃ t, exec .deviceReset s = .next t ∧ t.mem.generation = s.mem.generation + 1 ∧ t.sent = s.sent ∧
      t.delivered = s.delivered ∧ t.pending = s.pending ∧ t.InResetState fun p => s.ports[p].requests
end

