-- ==== Sys2Proof/Laws/State.lean ====
section
/-! SUPPORT. One lemma per field of the state for each update of Machine/Ops.lean and of the families: the fields an update
leaves alone, as simp lemmas, and what it does to the record it changes. -/

namespace Sys2Proof.Machine

variable (s : State)

/-! ## Reading a record after an update -/

@[simp] theorem State.port_eq (p : PortId) : s.port p = s.ports[p.val] := rfl

@[simp] theorem State.slot_eq (n : SlotId) : s.slot n = s.slots[n.val] := rfl

theorem State.ports_modifyPort (p q : PortId) (f : PortRec → PortRec) :
    (s.modifyPort p f).ports[q.val] = if p = q then f s.ports[p.val] else s.ports[q.val] := by
  simp [State.modifyPort, Vector.getElem_set, Fin.val_inj]

@[simp] theorem State.ports_modifyPort_self (p : PortId) (f : PortRec → PortRec) :
    (s.modifyPort p f).ports[p.val] = f s.ports[p.val] := by simp [State.ports_modifyPort]

theorem State.ports_modifyPort_ne {p q : PortId} (f : PortRec → PortRec) (h : p ≠ q) :
    (s.modifyPort p f).ports[q.val] = s.ports[q.val] := by simp [State.ports_modifyPort, h]

theorem State.slots_modifySlot (m n : SlotId) (f : MapSlot → MapSlot) :
    (s.modifySlot m f).slots[n.val] = if m = n then f s.slots[m.val] else s.slots[n.val] := by
  simp [State.modifySlot, Vector.getElem_set, Fin.val_inj]

@[simp] theorem State.slots_modifySlot_self (n : SlotId) (f : MapSlot → MapSlot) :
    (s.modifySlot n f).slots[n.val] = f s.slots[n.val] := by simp [State.slots_modifySlot]

theorem State.slots_modifySlot_ne {m n : SlotId} (f : MapSlot → MapSlot) (h : m ≠ n) :
    (s.modifySlot m f).slots[n.val] = s.slots[n.val] := by simp [State.slots_modifySlot, h]

theorem State.ports_moveRights (h : Holdings) (p : PortId) :
    (s.moveRights h).ports[p.val] =
      if s.rights.role p = h.role p then s.ports[p.val] else s.ports[p.val].raise .role := by
  simp [State.moveRights]

/-! ## The port record -/

@[simp] theorem PortRec.raise_state (r : PortRec) (f : Flag) : (r.raise f).state = r.state := rfl
@[simp] theorem PortRec.raise_params (r : PortRec) (f : Flag) : (r.raise f).params = r.params := rfl
@[simp] theorem PortRec.raise_slots (r : PortRec) (f : Flag) : (r.raise f).slots = r.slots := rfl
@[simp] theorem PortRec.raise_arrival (r : PortRec) (f : Flag) : (r.raise f).arrival = r.arrival := rfl
@[simp] theorem PortRec.raise_requests (r : PortRec) (f : Flag) : (r.raise f).requests = r.requests := rfl
@[simp] theorem PortRec.raise_staging (r : PortRec) (f : Flag) : (r.raise f).staging = r.staging := rfl
@[simp] theorem PortRec.raise_commands (r : PortRec) (f : Flag) : (r.raise f).commands = r.commands := rfl
@[simp] theorem PortRec.raise_completions (r : PortRec) (f : Flag) : (r.raise f).completions = r.completions := rfl
@[simp] theorem PortRec.raise_outstanding (r : PortRec) (f : Flag) : (r.raise f).outstanding = r.outstanding := rfl
@[simp] theorem PortRec.raise_postRefused (r : PortRec) (f : Flag) : (r.raise f).postRefused = r.postRefused := rfl
@[simp] theorem PortRec.raise_renewIgnored (r : PortRec) (f : Flag) : (r.raise f).renewIgnored = r.renewIgnored := rfl
@[simp] theorem PortRec.raise_enables (r : PortRec) (f : Flag) : (r.raise f).enables = r.enables := rfl
@[simp] theorem PortRec.mapSlots_state (r : PortRec) (f : AccessSlot → Option AccessSlot) : (r.mapSlots f).state = r.state := rfl
@[simp] theorem PortRec.answerFenced_state (r : PortRec) : r.answerFenced.state = r.state := rfl
@[simp] theorem PortRec.mapSlots_params (r : PortRec) (f : AccessSlot → Option AccessSlot) : (r.mapSlots f).params = r.params := rfl
@[simp] theorem PortRec.answerFenced_params (r : PortRec) : r.answerFenced.params = r.params := rfl
@[simp] theorem PortRec.mapSlots_arrival (r : PortRec) (f : AccessSlot → Option AccessSlot) : (r.mapSlots f).arrival = r.arrival := rfl
@[simp] theorem PortRec.answerFenced_arrival (r : PortRec) : r.answerFenced.arrival = r.arrival := rfl
@[simp] theorem PortRec.mapSlots_requests (r : PortRec) (f : AccessSlot → Option AccessSlot) : (r.mapSlots f).requests = r.requests := rfl
@[simp] theorem PortRec.answerFenced_requests (r : PortRec) : r.answerFenced.requests = r.requests := rfl
@[simp] theorem PortRec.mapSlots_staging (r : PortRec) (f : AccessSlot → Option AccessSlot) : (r.mapSlots f).staging = r.staging := rfl
@[simp] theorem PortRec.answerFenced_staging (r : PortRec) : r.answerFenced.staging = r.staging := rfl
@[simp] theorem PortRec.mapSlots_commands (r : PortRec) (f : AccessSlot → Option AccessSlot) : (r.mapSlots f).commands = r.commands := rfl
@[simp] theorem PortRec.answerFenced_commands (r : PortRec) : r.answerFenced.commands = r.commands := rfl
@[simp] theorem PortRec.mapSlots_completions (r : PortRec) (f : AccessSlot → Option AccessSlot) : (r.mapSlots f).completions = r.completions := rfl
@[simp] theorem PortRec.answerFenced_completions (r : PortRec) : r.answerFenced.completions = r.completions := rfl
@[simp] theorem PortRec.mapSlots_outstanding (r : PortRec) (f : AccessSlot → Option AccessSlot) : (r.mapSlots f).outstanding = r.outstanding := rfl
@[simp] theorem PortRec.answerFenced_outstanding (r : PortRec) : r.answerFenced.outstanding = r.outstanding := rfl
@[simp] theorem PortRec.mapSlots_postRefused (r : PortRec) (f : AccessSlot → Option AccessSlot) : (r.mapSlots f).postRefused = r.postRefused := rfl
@[simp] theorem PortRec.answerFenced_postRefused (r : PortRec) : r.answerFenced.postRefused = r.postRefused := rfl
@[simp] theorem PortRec.mapSlots_renewIgnored (r : PortRec) (f : AccessSlot → Option AccessSlot) : (r.mapSlots f).renewIgnored = r.renewIgnored := rfl
@[simp] theorem PortRec.answerFenced_renewIgnored (r : PortRec) : r.answerFenced.renewIgnored = r.renewIgnored := rfl
@[simp] theorem PortRec.mapSlots_enables (r : PortRec) (f : AccessSlot → Option AccessSlot) : (r.mapSlots f).enables = r.enables := rfl
@[simp] theorem PortRec.answerFenced_enables (r : PortRec) : r.answerFenced.enables = r.enables := rfl
@[simp] theorem PortRec.mapSlots_flags (r : PortRec) (f : AccessSlot → Option AccessSlot) : (r.mapSlots f).flags = r.flags := rfl
@[simp] theorem PortRec.answerFenced_flags (r : PortRec) : r.answerFenced.flags = r.flags := rfl
@[simp] theorem PortRec.accept_state (r : PortRec) (k : AccId) (a : Access) : (r.accept k a).state = r.state := rfl
@[simp] theorem PortRec.accept_params (r : PortRec) (k : AccId) (a : Access) : (r.accept k a).params = r.params := rfl
@[simp] theorem PortRec.accept_requests (r : PortRec) (k : AccId) (a : Access) : (r.accept k a).requests = r.requests := rfl
@[simp] theorem PortRec.accept_staging (r : PortRec) (k : AccId) (a : Access) : (r.accept k a).staging = r.staging := rfl
@[simp] theorem PortRec.accept_commands (r : PortRec) (k : AccId) (a : Access) : (r.accept k a).commands = r.commands := rfl
@[simp] theorem PortRec.accept_completions (r : PortRec) (k : AccId) (a : Access) : (r.accept k a).completions = r.completions := rfl
@[simp] theorem PortRec.accept_outstanding (r : PortRec) (k : AccId) (a : Access) : (r.accept k a).outstanding = r.outstanding := rfl
@[simp] theorem PortRec.accept_postRefused (r : PortRec) (k : AccId) (a : Access) : (r.accept k a).postRefused = r.postRefused := rfl
@[simp] theorem PortRec.accept_renewIgnored (r : PortRec) (k : AccId) (a : Access) : (r.accept k a).renewIgnored = r.renewIgnored := rfl
@[simp] theorem PortRec.accept_enables (r : PortRec) (k : AccId) (a : Access) : (r.accept k a).enables = r.enables := rfl
@[simp] theorem PortRec.accept_flags (r : PortRec) (k : AccId) (a : Access) : (r.accept k a).flags = r.flags := rfl

/-! ## A port record changes -/

@[simp] theorem State.modifyPort_slots (p : PortId) (f : PortRec → PortRec) : (s.modifyPort p f).slots = s.slots := rfl
@[simp] theorem State.modifyPort_jobs (p : PortId) (f : PortRec → PortRec) : (s.modifyPort p f).jobs = s.jobs := rfl
@[simp] theorem State.modifyPort_mem (p : PortId) (f : PortRec → PortRec) : (s.modifyPort p f).mem = s.mem := rfl
@[simp] theorem State.modifyPort_faults (p : PortId) (f : PortRec → PortRec) : (s.modifyPort p f).faults = s.faults := rfl
@[simp] theorem State.modifyPort_seqCounter (p : PortId) (f : PortRec → PortRec) :
    (s.modifyPort p f).seqCounter = s.seqCounter := rfl
@[simp] theorem State.modifyPort_stampCount (p : PortId) (f : PortRec → PortRec) :
    (s.modifyPort p f).stampCount = s.stampCount := rfl
@[simp] theorem State.modifyPort_rights (p : PortId) (f : PortRec → PortRec) : (s.modifyPort p f).rights = s.rights := rfl
@[simp] theorem State.modifyPort_memsize (p : PortId) (f : PortRec → PortRec) : (s.modifyPort p f).memsize = s.memsize := rfl
@[simp] theorem State.modifyPort_stallLimit (p : PortId) (f : PortRec → PortRec) :
    (s.modifyPort p f).stallLimit = s.stallLimit := rfl
@[simp] theorem State.modifyPort_sent (p : PortId) (f : PortRec → PortRec) : (s.modifyPort p f).sent = s.sent := rfl
@[simp] theorem State.modifyPort_delivered (p : PortId) (f : PortRec → PortRec) :
    (s.modifyPort p f).delivered = s.delivered := rfl
@[simp] theorem State.modifyPort_pending (p : PortId) (f : PortRec → PortRec) : (s.modifyPort p f).pending = s.pending := rfl

/-! ## A map slot changes -/

@[simp] theorem State.modifySlot_ports (n : SlotId) (f : MapSlot → MapSlot) : (s.modifySlot n f).ports = s.ports := rfl
@[simp] theorem State.modifySlot_jobs (n : SlotId) (f : MapSlot → MapSlot) : (s.modifySlot n f).jobs = s.jobs := rfl
@[simp] theorem State.modifySlot_mem (n : SlotId) (f : MapSlot → MapSlot) : (s.modifySlot n f).mem = s.mem := rfl
@[simp] theorem State.modifySlot_faults (n : SlotId) (f : MapSlot → MapSlot) : (s.modifySlot n f).faults = s.faults := rfl
@[simp] theorem State.modifySlot_seqCounter (n : SlotId) (f : MapSlot → MapSlot) :
    (s.modifySlot n f).seqCounter = s.seqCounter := rfl
@[simp] theorem State.modifySlot_stampCount (n : SlotId) (f : MapSlot → MapSlot) :
    (s.modifySlot n f).stampCount = s.stampCount := rfl
@[simp] theorem State.modifySlot_rights (n : SlotId) (f : MapSlot → MapSlot) : (s.modifySlot n f).rights = s.rights := rfl
@[simp] theorem State.modifySlot_memsize (n : SlotId) (f : MapSlot → MapSlot) : (s.modifySlot n f).memsize = s.memsize := rfl
@[simp] theorem State.modifySlot_stallLimit (n : SlotId) (f : MapSlot → MapSlot) :
    (s.modifySlot n f).stallLimit = s.stallLimit := rfl
@[simp] theorem State.modifySlot_sent (n : SlotId) (f : MapSlot → MapSlot) : (s.modifySlot n f).sent = s.sent := rfl
@[simp] theorem State.modifySlot_delivered (n : SlotId) (f : MapSlot → MapSlot) :
    (s.modifySlot n f).delivered = s.delivered := rfl
@[simp] theorem State.modifySlot_pending (n : SlotId) (f : MapSlot → MapSlot) : (s.modifySlot n f).pending = s.pending := rfl

/-! ## A completion joins -/

@[simp] theorem State.join_slots (p : PortId) (c : Completion) : (s.join p c).slots = s.slots := rfl
@[simp] theorem State.join_jobs (p : PortId) (c : Completion) : (s.join p c).jobs = s.jobs := rfl
@[simp] theorem State.join_mem (p : PortId) (c : Completion) : (s.join p c).mem = s.mem := rfl
@[simp] theorem State.join_faults (p : PortId) (c : Completion) : (s.join p c).faults = s.faults := rfl
@[simp] theorem State.join_seqCounter (p : PortId) (c : Completion) : (s.join p c).seqCounter = s.seqCounter := rfl
@[simp] theorem State.join_stampCount (p : PortId) (c : Completion) : (s.join p c).stampCount = s.stampCount := rfl
@[simp] theorem State.join_rights (p : PortId) (c : Completion) : (s.join p c).rights = s.rights := rfl
@[simp] theorem State.join_memsize (p : PortId) (c : Completion) : (s.join p c).memsize = s.memsize := rfl
@[simp] theorem State.join_stallLimit (p : PortId) (c : Completion) : (s.join p c).stallLimit = s.stallLimit := rfl
@[simp] theorem State.join_sent (p : PortId) (c : Completion) : (s.join p c).sent = s.sent := rfl
@[simp] theorem State.join_delivered (p : PortId) (c : Completion) : (s.join p c).delivered = s.delivered := rfl
@[simp] theorem State.join_pending (p : PortId) (c : Completion) : (s.join p c).pending = s.pending := rfl

/-! ## A command completes -/

@[simp] theorem State.complete_slots (t : Taken) (x : Status) (r : Option Result) : (s.complete t x r).slots = s.slots := rfl
@[simp] theorem State.complete_jobs (t : Taken) (x : Status) (r : Option Result) : (s.complete t x r).jobs = s.jobs := rfl
@[simp] theorem State.complete_mem (t : Taken) (x : Status) (r : Option Result) : (s.complete t x r).mem = s.mem := rfl
@[simp] theorem State.complete_faults (t : Taken) (x : Status) (r : Option Result) :
    (s.complete t x r).faults = s.faults := rfl
@[simp] theorem State.complete_seqCounter (t : Taken) (x : Status) (r : Option Result) :
    (s.complete t x r).seqCounter = s.seqCounter := rfl
@[simp] theorem State.complete_stampCount (t : Taken) (x : Status) (r : Option Result) :
    (s.complete t x r).stampCount = s.stampCount := rfl
@[simp] theorem State.complete_rights (t : Taken) (x : Status) (r : Option Result) :
    (s.complete t x r).rights = s.rights := rfl
@[simp] theorem State.complete_memsize (t : Taken) (x : Status) (r : Option Result) :
    (s.complete t x r).memsize = s.memsize := rfl
@[simp] theorem State.complete_stallLimit (t : Taken) (x : Status) (r : Option Result) :
    (s.complete t x r).stallLimit = s.stallLimit := rfl
@[simp] theorem State.complete_sent (t : Taken) (x : Status) (r : Option Result) : (s.complete t x r).sent = s.sent := rfl
@[simp] theorem State.complete_delivered (t : Taken) (x : Status) (r : Option Result) :
    (s.complete t x r).delivered = s.delivered := rfl
@[simp] theorem State.complete_pending (t : Taken) (x : Status) (r : Option Result) :
    (s.complete t x r).pending = s.pending := rfl

/-! ## Rights move -/

@[simp] theorem State.moveRights_slots (h : Holdings) : (s.moveRights h).slots = s.slots := rfl
@[simp] theorem State.moveRights_jobs (h : Holdings) : (s.moveRights h).jobs = s.jobs := rfl
@[simp] theorem State.moveRights_mem (h : Holdings) : (s.moveRights h).mem = s.mem := rfl
@[simp] theorem State.moveRights_faults (h : Holdings) : (s.moveRights h).faults = s.faults := rfl
@[simp] theorem State.moveRights_seqCounter (h : Holdings) : (s.moveRights h).seqCounter = s.seqCounter := rfl
@[simp] theorem State.moveRights_stampCount (h : Holdings) : (s.moveRights h).stampCount = s.stampCount := rfl
@[simp] theorem State.moveRights_memsize (h : Holdings) : (s.moveRights h).memsize = s.memsize := rfl
@[simp] theorem State.moveRights_stallLimit (h : Holdings) : (s.moveRights h).stallLimit = s.stallLimit := rfl
@[simp] theorem State.moveRights_sent (h : Holdings) : (s.moveRights h).sent = s.sent := rfl
@[simp] theorem State.moveRights_delivered (h : Holdings) : (s.moveRights h).delivered = s.delivered := rfl
@[simp] theorem State.moveRights_pending (h : Holdings) : (s.moveRights h).pending = s.pending := rfl
@[simp] theorem State.moveRights_rights (h : Holdings) : (s.moveRights h).rights = h := rfl

/-! ## A record retires -/

@[simp] theorem State.retireAccess_slots (p : PortId) : (s.retireAccess p).slots = s.slots := rfl
@[simp] theorem State.retireAccess_ports (p : PortId) : (s.retireAccess p).ports = s.ports := rfl
@[simp] theorem State.retireAccess_jobs (p : PortId) : (s.retireAccess p).jobs = s.jobs := rfl
@[simp] theorem State.retireAccess_mem (p : PortId) : (s.retireAccess p).mem = s.mem := rfl
@[simp] theorem State.retireAccess_seqCounter (p : PortId) : (s.retireAccess p).seqCounter = s.seqCounter := rfl
@[simp] theorem State.retireAccess_stampCount (p : PortId) : (s.retireAccess p).stampCount = s.stampCount := rfl
@[simp] theorem State.retireAccess_rights (p : PortId) : (s.retireAccess p).rights = s.rights := rfl
@[simp] theorem State.retireAccess_memsize (p : PortId) : (s.retireAccess p).memsize = s.memsize := rfl
@[simp] theorem State.retireAccess_stallLimit (p : PortId) : (s.retireAccess p).stallLimit = s.stallLimit := rfl
@[simp] theorem State.retireAccess_sent (p : PortId) : (s.retireAccess p).sent = s.sent := rfl
@[simp] theorem State.retireAccess_delivered (p : PortId) : (s.retireAccess p).delivered = s.delivered := rfl
@[simp] theorem State.retireAccess_pending (p : PortId) : (s.retireAccess p).pending = s.pending := rfl

/-! ## A LEASE record retires -/

@[simp] theorem State.retireLease_slots (p : PortId) : (s.retireLease p).slots = s.slots := rfl
@[simp] theorem State.retireLease_ports (p : PortId) : (s.retireLease p).ports = s.ports := rfl
@[simp] theorem State.retireLease_jobs (p : PortId) : (s.retireLease p).jobs = s.jobs := rfl
@[simp] theorem State.retireLease_mem (p : PortId) : (s.retireLease p).mem = s.mem := rfl
@[simp] theorem State.retireLease_seqCounter (p : PortId) : (s.retireLease p).seqCounter = s.seqCounter := rfl
@[simp] theorem State.retireLease_stampCount (p : PortId) : (s.retireLease p).stampCount = s.stampCount := rfl
@[simp] theorem State.retireLease_rights (p : PortId) : (s.retireLease p).rights = s.rights := rfl
@[simp] theorem State.retireLease_memsize (p : PortId) : (s.retireLease p).memsize = s.memsize := rfl
@[simp] theorem State.retireLease_stallLimit (p : PortId) : (s.retireLease p).stallLimit = s.stallLimit := rfl
@[simp] theorem State.retireLease_sent (p : PortId) : (s.retireLease p).sent = s.sent := rfl
@[simp] theorem State.retireLease_delivered (p : PortId) : (s.retireLease p).delivered = s.delivered := rfl
@[simp] theorem State.retireLease_pending (p : PortId) : (s.retireLease p).pending = s.pending := rfl

/-! ## The binder count rises -/

@[simp] theorem State.raiseBinders_ports (n : SlotId) : (s.raiseBinders n).ports = s.ports := rfl
@[simp] theorem State.raiseBinders_jobs (n : SlotId) : (s.raiseBinders n).jobs = s.jobs := rfl
@[simp] theorem State.raiseBinders_mem (n : SlotId) : (s.raiseBinders n).mem = s.mem := rfl
@[simp] theorem State.raiseBinders_faults (n : SlotId) : (s.raiseBinders n).faults = s.faults := rfl
@[simp] theorem State.raiseBinders_seqCounter (n : SlotId) : (s.raiseBinders n).seqCounter = s.seqCounter := rfl
@[simp] theorem State.raiseBinders_stampCount (n : SlotId) : (s.raiseBinders n).stampCount = s.stampCount := rfl
@[simp] theorem State.raiseBinders_rights (n : SlotId) : (s.raiseBinders n).rights = s.rights := rfl
@[simp] theorem State.raiseBinders_memsize (n : SlotId) : (s.raiseBinders n).memsize = s.memsize := rfl
@[simp] theorem State.raiseBinders_stallLimit (n : SlotId) : (s.raiseBinders n).stallLimit = s.stallLimit := rfl
@[simp] theorem State.raiseBinders_sent (n : SlotId) : (s.raiseBinders n).sent = s.sent := rfl
@[simp] theorem State.raiseBinders_delivered (n : SlotId) : (s.raiseBinders n).delivered = s.delivered := rfl
@[simp] theorem State.raiseBinders_pending (n : SlotId) : (s.raiseBinders n).pending = s.pending := rfl

/-! ## The binder count falls -/

@[simp] theorem State.lowerBinders_ports (n : SlotId) : (s.lowerBinders n).ports = s.ports := rfl
@[simp] theorem State.lowerBinders_jobs (n : SlotId) : (s.lowerBinders n).jobs = s.jobs := rfl
@[simp] theorem State.lowerBinders_mem (n : SlotId) : (s.lowerBinders n).mem = s.mem := rfl
@[simp] theorem State.lowerBinders_faults (n : SlotId) : (s.lowerBinders n).faults = s.faults := rfl
@[simp] theorem State.lowerBinders_seqCounter (n : SlotId) : (s.lowerBinders n).seqCounter = s.seqCounter := rfl
@[simp] theorem State.lowerBinders_stampCount (n : SlotId) : (s.lowerBinders n).stampCount = s.stampCount := rfl
@[simp] theorem State.lowerBinders_rights (n : SlotId) : (s.lowerBinders n).rights = s.rights := rfl
@[simp] theorem State.lowerBinders_memsize (n : SlotId) : (s.lowerBinders n).memsize = s.memsize := rfl
@[simp] theorem State.lowerBinders_stallLimit (n : SlotId) : (s.lowerBinders n).stallLimit = s.stallLimit := rfl
@[simp] theorem State.lowerBinders_sent (n : SlotId) : (s.lowerBinders n).sent = s.sent := rfl
@[simp] theorem State.lowerBinders_delivered (n : SlotId) : (s.lowerBinders n).delivered = s.delivered := rfl
@[simp] theorem State.lowerBinders_pending (n : SlotId) : (s.lowerBinders n).pending = s.pending := rfl

/-! ## The in-flight count rises -/

@[simp] theorem State.raiseInFlight_ports (n : SlotId) : (s.raiseInFlight n).ports = s.ports := rfl
@[simp] theorem State.raiseInFlight_jobs (n : SlotId) : (s.raiseInFlight n).jobs = s.jobs := rfl
@[simp] theorem State.raiseInFlight_mem (n : SlotId) : (s.raiseInFlight n).mem = s.mem := rfl
@[simp] theorem State.raiseInFlight_faults (n : SlotId) : (s.raiseInFlight n).faults = s.faults := rfl
@[simp] theorem State.raiseInFlight_seqCounter (n : SlotId) : (s.raiseInFlight n).seqCounter = s.seqCounter := rfl
@[simp] theorem State.raiseInFlight_stampCount (n : SlotId) : (s.raiseInFlight n).stampCount = s.stampCount := rfl
@[simp] theorem State.raiseInFlight_rights (n : SlotId) : (s.raiseInFlight n).rights = s.rights := rfl
@[simp] theorem State.raiseInFlight_memsize (n : SlotId) : (s.raiseInFlight n).memsize = s.memsize := rfl
@[simp] theorem State.raiseInFlight_stallLimit (n : SlotId) : (s.raiseInFlight n).stallLimit = s.stallLimit := rfl
@[simp] theorem State.raiseInFlight_sent (n : SlotId) : (s.raiseInFlight n).sent = s.sent := rfl
@[simp] theorem State.raiseInFlight_delivered (n : SlotId) : (s.raiseInFlight n).delivered = s.delivered := rfl
@[simp] theorem State.raiseInFlight_pending (n : SlotId) : (s.raiseInFlight n).pending = s.pending := rfl

/-! ## The tick stamp count rises -/

@[simp] theorem State.tickStamp_slots  : (s.tickStamp).slots = s.slots := rfl
@[simp] theorem State.tickStamp_ports  : (s.tickStamp).ports = s.ports := rfl
@[simp] theorem State.tickStamp_jobs  : (s.tickStamp).jobs = s.jobs := rfl
@[simp] theorem State.tickStamp_mem  : (s.tickStamp).mem = s.mem := rfl
@[simp] theorem State.tickStamp_faults  : (s.tickStamp).faults = s.faults := rfl
@[simp] theorem State.tickStamp_seqCounter  : (s.tickStamp).seqCounter = s.seqCounter := rfl
@[simp] theorem State.tickStamp_rights  : (s.tickStamp).rights = s.rights := rfl
@[simp] theorem State.tickStamp_memsize  : (s.tickStamp).memsize = s.memsize := rfl
@[simp] theorem State.tickStamp_stallLimit  : (s.tickStamp).stallLimit = s.stallLimit := rfl
@[simp] theorem State.tickStamp_sent  : (s.tickStamp).sent = s.sent := rfl
@[simp] theorem State.tickStamp_delivered  : (s.tickStamp).delivered = s.delivered := rfl
@[simp] theorem State.tickStamp_pending  : (s.tickStamp).pending = s.pending := rfl

/-! ## What a port issued is disowned -/

@[simp] theorem State.disown_ports (p : PortId) : (s.disown p).ports = s.ports := rfl
@[simp] theorem State.disown_mem (p : PortId) : (s.disown p).mem = s.mem := rfl
@[simp] theorem State.disown_faults (p : PortId) : (s.disown p).faults = s.faults := rfl
@[simp] theorem State.disown_seqCounter (p : PortId) : (s.disown p).seqCounter = s.seqCounter := rfl
@[simp] theorem State.disown_stampCount (p : PortId) : (s.disown p).stampCount = s.stampCount := rfl
@[simp] theorem State.disown_rights (p : PortId) : (s.disown p).rights = s.rights := rfl
@[simp] theorem State.disown_memsize (p : PortId) : (s.disown p).memsize = s.memsize := rfl
@[simp] theorem State.disown_stallLimit (p : PortId) : (s.disown p).stallLimit = s.stallLimit := rfl
@[simp] theorem State.disown_sent (p : PortId) : (s.disown p).sent = s.sent := rfl
@[simp] theorem State.disown_delivered (p : PortId) : (s.disown p).delivered = s.delivered := rfl
@[simp] theorem State.disown_pending (p : PortId) : (s.disown p).pending = s.pending := rfl

/-! ## A transaction is sent -/

@[simp] theorem State.send_slots (q : Fin 7) (n : TxnId) (r : Requester) (k : AccessKind)
    (a : BitVec 24) (b : Nat) (d : List Byte) :
    (s.send q n r k a b d).slots = s.slots := rfl
@[simp] theorem State.send_ports (q : Fin 7) (n : TxnId) (r : Requester) (k : AccessKind)
    (a : BitVec 24) (b : Nat) (d : List Byte) :
    (s.send q n r k a b d).ports = s.ports := rfl
@[simp] theorem State.send_jobs (q : Fin 7) (n : TxnId) (r : Requester) (k : AccessKind)
    (a : BitVec 24) (b : Nat) (d : List Byte) :
    (s.send q n r k a b d).jobs = s.jobs := rfl
@[simp] theorem State.send_faults (q : Fin 7) (n : TxnId) (r : Requester) (k : AccessKind)
    (a : BitVec 24) (b : Nat) (d : List Byte) :
    (s.send q n r k a b d).faults = s.faults := rfl
@[simp] theorem State.send_seqCounter (q : Fin 7) (n : TxnId) (r : Requester) (k : AccessKind)
    (a : BitVec 24) (b : Nat) (d : List Byte) :
    (s.send q n r k a b d).seqCounter = s.seqCounter := rfl
@[simp] theorem State.send_stampCount (q : Fin 7) (n : TxnId) (r : Requester) (k : AccessKind)
    (a : BitVec 24) (b : Nat) (d : List Byte) :
    (s.send q n r k a b d).stampCount = s.stampCount := rfl
@[simp] theorem State.send_rights (q : Fin 7) (n : TxnId) (r : Requester) (k : AccessKind)
    (a : BitVec 24) (b : Nat) (d : List Byte) :
    (s.send q n r k a b d).rights = s.rights := rfl
@[simp] theorem State.send_memsize (q : Fin 7) (n : TxnId) (r : Requester) (k : AccessKind)
    (a : BitVec 24) (b : Nat) (d : List Byte) :
    (s.send q n r k a b d).memsize = s.memsize := rfl
@[simp] theorem State.send_stallLimit (q : Fin 7) (n : TxnId) (r : Requester) (k : AccessKind)
    (a : BitVec 24) (b : Nat) (d : List Byte) :
    (s.send q n r k a b d).stallLimit = s.stallLimit := rfl
@[simp] theorem State.send_delivered (q : Fin 7) (n : TxnId) (r : Requester) (k : AccessKind)
    (a : BitVec 24) (b : Nat) (d : List Byte) :
    (s.send q n r k a b d).delivered = s.delivered := rfl
@[simp] theorem State.send_pending (q : Fin 7) (n : TxnId) (r : Requester) (k : AccessKind)
    (a : BitVec 24) (b : Nat) (d : List Byte) :
    (s.send q n r k a b d).pending = s.pending := rfl

/-! ## The supervisor is flagged -/

@[simp] theorem State.raiseSupervisor_slots (f : Flag) :
    (s.raiseSupervisor f).slots = s.slots := by unfold State.raiseSupervisor; split <;> rfl
@[simp] theorem State.raiseSupervisor_jobs (f : Flag) :
    (s.raiseSupervisor f).jobs = s.jobs := by unfold State.raiseSupervisor; split <;> rfl
@[simp] theorem State.raiseSupervisor_mem (f : Flag) :
    (s.raiseSupervisor f).mem = s.mem := by unfold State.raiseSupervisor; split <;> rfl
@[simp] theorem State.raiseSupervisor_faults (f : Flag) :
    (s.raiseSupervisor f).faults = s.faults := by unfold State.raiseSupervisor; split <;> rfl
@[simp] theorem State.raiseSupervisor_seqCounter (f : Flag) :
    (s.raiseSupervisor f).seqCounter = s.seqCounter := by unfold State.raiseSupervisor; split <;> rfl
@[simp] theorem State.raiseSupervisor_stampCount (f : Flag) :
    (s.raiseSupervisor f).stampCount = s.stampCount := by unfold State.raiseSupervisor; split <;> rfl
@[simp] theorem State.raiseSupervisor_rights (f : Flag) :
    (s.raiseSupervisor f).rights = s.rights := by unfold State.raiseSupervisor; split <;> rfl
@[simp] theorem State.raiseSupervisor_memsize (f : Flag) :
    (s.raiseSupervisor f).memsize = s.memsize := by unfold State.raiseSupervisor; split <;> rfl
@[simp] theorem State.raiseSupervisor_stallLimit (f : Flag) :
    (s.raiseSupervisor f).stallLimit = s.stallLimit := by unfold State.raiseSupervisor; split <;> rfl
@[simp] theorem State.raiseSupervisor_sent (f : Flag) :
    (s.raiseSupervisor f).sent = s.sent := by unfold State.raiseSupervisor; split <;> rfl
@[simp] theorem State.raiseSupervisor_delivered (f : Flag) :
    (s.raiseSupervisor f).delivered = s.delivered := by unfold State.raiseSupervisor; split <;> rfl
@[simp] theorem State.raiseSupervisor_pending (f : Flag) :
    (s.raiseSupervisor f).pending = s.pending := by unfold State.raiseSupervisor; split <;> rfl

/-! ## A COMMIT completes -/

@[simp] theorem State.completeCommit_slots (c : PendingCommit) (x : Status) (r : Option Result) :
    (s.completeCommit c x r).slots = s.slots := by unfold State.completeCommit; split <;> rfl
@[simp] theorem State.completeCommit_jobs (c : PendingCommit) (x : Status) (r : Option Result) :
    (s.completeCommit c x r).jobs = s.jobs := by unfold State.completeCommit; split <;> rfl
@[simp] theorem State.completeCommit_mem (c : PendingCommit) (x : Status) (r : Option Result) :
    (s.completeCommit c x r).mem = s.mem := by unfold State.completeCommit; split <;> rfl
@[simp] theorem State.completeCommit_faults (c : PendingCommit) (x : Status) (r : Option Result) :
    (s.completeCommit c x r).faults = s.faults := by unfold State.completeCommit; split <;> rfl
@[simp] theorem State.completeCommit_seqCounter (c : PendingCommit) (x : Status) (r : Option Result) :
    (s.completeCommit c x r).seqCounter = s.seqCounter := by unfold State.completeCommit; split <;> rfl
@[simp] theorem State.completeCommit_stampCount (c : PendingCommit) (x : Status) (r : Option Result) :
    (s.completeCommit c x r).stampCount = s.stampCount := by unfold State.completeCommit; split <;> rfl
@[simp] theorem State.completeCommit_rights (c : PendingCommit) (x : Status) (r : Option Result) :
    (s.completeCommit c x r).rights = s.rights := by unfold State.completeCommit; split <;> rfl
@[simp] theorem State.completeCommit_memsize (c : PendingCommit) (x : Status) (r : Option Result) :
    (s.completeCommit c x r).memsize = s.memsize := by unfold State.completeCommit; split <;> rfl
@[simp] theorem State.completeCommit_stallLimit (c : PendingCommit) (x : Status) (r : Option Result) :
    (s.completeCommit c x r).stallLimit = s.stallLimit := by unfold State.completeCommit; split <;> rfl
@[simp] theorem State.completeCommit_sent (c : PendingCommit) (x : Status) (r : Option Result) :
    (s.completeCommit c x r).sent = s.sent := by unfold State.completeCommit; split <;> rfl
@[simp] theorem State.completeCommit_delivered (c : PendingCommit) (x : Status) (r : Option Result) :
    (s.completeCommit c x r).delivered = s.delivered := by unfold State.completeCommit; split <;> rfl
@[simp] theorem State.completeCommit_pending (c : PendingCommit) (x : Status) (r : Option Result) :
    (s.completeCommit c x r).pending = s.pending := by unfold State.completeCommit; split <;> rfl

/-! ## A LOAD completes -/

@[simp] theorem State.completeJob_slots (j : Job) (x : Status) (n : Nat) :
    (s.completeJob j x n).slots = s.slots := by unfold State.completeJob; split <;> rfl
@[simp] theorem State.completeJob_jobs (j : Job) (x : Status) (n : Nat) :
    (s.completeJob j x n).jobs = s.jobs := by unfold State.completeJob; split <;> rfl
@[simp] theorem State.completeJob_mem (j : Job) (x : Status) (n : Nat) :
    (s.completeJob j x n).mem = s.mem := by unfold State.completeJob; split <;> rfl
@[simp] theorem State.completeJob_faults (j : Job) (x : Status) (n : Nat) :
    (s.completeJob j x n).faults = s.faults := by unfold State.completeJob; split <;> rfl
@[simp] theorem State.completeJob_seqCounter (j : Job) (x : Status) (n : Nat) :
    (s.completeJob j x n).seqCounter = s.seqCounter := by unfold State.completeJob; split <;> rfl
@[simp] theorem State.completeJob_stampCount (j : Job) (x : Status) (n : Nat) :
    (s.completeJob j x n).stampCount = s.stampCount := by unfold State.completeJob; split <;> rfl
@[simp] theorem State.completeJob_rights (j : Job) (x : Status) (n : Nat) :
    (s.completeJob j x n).rights = s.rights := by unfold State.completeJob; split <;> rfl
@[simp] theorem State.completeJob_memsize (j : Job) (x : Status) (n : Nat) :
    (s.completeJob j x n).memsize = s.memsize := by unfold State.completeJob; split <;> rfl
@[simp] theorem State.completeJob_stallLimit (j : Job) (x : Status) (n : Nat) :
    (s.completeJob j x n).stallLimit = s.stallLimit := by unfold State.completeJob; split <;> rfl
@[simp] theorem State.completeJob_sent (j : Job) (x : Status) (n : Nat) :
    (s.completeJob j x n).sent = s.sent := by unfold State.completeJob; split <;> rfl
@[simp] theorem State.completeJob_delivered (j : Job) (x : Status) (n : Nat) :
    (s.completeJob j x n).delivered = s.delivered := by unfold State.completeJob; split <;> rfl
@[simp] theorem State.completeJob_pending (j : Job) (x : Status) (n : Nat) :
    (s.completeJob j x n).pending = s.pending := by unfold State.completeJob; split <;> rfl

/-! ## A record joins -/

@[simp] theorem State.joinFault_slots (p : PortId) (b : FaultBody) :
    (s.joinFault p b).slots = s.slots := by simp [State.joinFault]
@[simp] theorem State.joinFault_jobs (p : PortId) (b : FaultBody) :
    (s.joinFault p b).jobs = s.jobs := by simp [State.joinFault]
@[simp] theorem State.joinFault_mem (p : PortId) (b : FaultBody) : (s.joinFault p b).mem = s.mem := by simp [State.joinFault]
@[simp] theorem State.joinFault_stampCount (p : PortId) (b : FaultBody) :
    (s.joinFault p b).stampCount = s.stampCount := by simp [State.joinFault]
@[simp] theorem State.joinFault_rights (p : PortId) (b : FaultBody) :
    (s.joinFault p b).rights = s.rights := by simp [State.joinFault]
@[simp] theorem State.joinFault_memsize (p : PortId) (b : FaultBody) :
    (s.joinFault p b).memsize = s.memsize := by simp [State.joinFault]
@[simp] theorem State.joinFault_stallLimit (p : PortId) (b : FaultBody) :
    (s.joinFault p b).stallLimit = s.stallLimit := by simp [State.joinFault]
@[simp] theorem State.joinFault_sent (p : PortId) (b : FaultBody) :
    (s.joinFault p b).sent = s.sent := by simp [State.joinFault]
@[simp] theorem State.joinFault_delivered (p : PortId) (b : FaultBody) :
    (s.joinFault p b).delivered = s.delivered := by simp [State.joinFault]
@[simp] theorem State.joinFault_pending (p : PortId) (b : FaultBody) :
    (s.joinFault p b).pending = s.pending := by simp [State.joinFault]

/-! ## The swap at a MARK boundary -/

@[simp] theorem State.swapMark_jobs (n : SlotId) (c : PendingCommit) :
    (s.swapMark n c).jobs = s.jobs := by simp [State.swapMark]
@[simp] theorem State.swapMark_mem (n : SlotId) (c : PendingCommit) :
    (s.swapMark n c).mem = s.mem := by simp [State.swapMark]
@[simp] theorem State.swapMark_faults (n : SlotId) (c : PendingCommit) :
    (s.swapMark n c).faults = s.faults := by simp [State.swapMark]
@[simp] theorem State.swapMark_seqCounter (n : SlotId) (c : PendingCommit) :
    (s.swapMark n c).seqCounter = s.seqCounter := by simp [State.swapMark]
@[simp] theorem State.swapMark_stampCount (n : SlotId) (c : PendingCommit) :
    (s.swapMark n c).stampCount = s.stampCount := by simp [State.swapMark]
@[simp] theorem State.swapMark_rights (n : SlotId) (c : PendingCommit) :
    (s.swapMark n c).rights = s.rights := by simp [State.swapMark]
@[simp] theorem State.swapMark_memsize (n : SlotId) (c : PendingCommit) :
    (s.swapMark n c).memsize = s.memsize := by simp [State.swapMark]
@[simp] theorem State.swapMark_stallLimit (n : SlotId) (c : PendingCommit) :
    (s.swapMark n c).stallLimit = s.stallLimit := by simp [State.swapMark]
@[simp] theorem State.swapMark_sent (n : SlotId) (c : PendingCommit) :
    (s.swapMark n c).sent = s.sent := by simp [State.swapMark]
@[simp] theorem State.swapMark_delivered (n : SlotId) (c : PendingCommit) :
    (s.swapMark n c).delivered = s.delivered := by simp [State.swapMark]
@[simp] theorem State.swapMark_pending (n : SlotId) (c : PendingCommit) :
    (s.swapMark n c).pending = s.pending := by simp [State.swapMark]

/-! ## A port leaves a waiting set -/

@[simp] theorem State.leaveWaiting_jobs (p : PortId) (n : SlotId) :
    (s.leaveWaiting p n).jobs = s.jobs := by unfold State.leaveWaiting; (repeat' split) <;> simp
@[simp] theorem State.leaveWaiting_mem (p : PortId) (n : SlotId) :
    (s.leaveWaiting p n).mem = s.mem := by unfold State.leaveWaiting; (repeat' split) <;> simp
@[simp] theorem State.leaveWaiting_faults (p : PortId) (n : SlotId) :
    (s.leaveWaiting p n).faults = s.faults := by unfold State.leaveWaiting; (repeat' split) <;> simp
@[simp] theorem State.leaveWaiting_seqCounter (p : PortId) (n : SlotId) :
    (s.leaveWaiting p n).seqCounter = s.seqCounter := by unfold State.leaveWaiting; (repeat' split) <;> simp
@[simp] theorem State.leaveWaiting_stampCount (p : PortId) (n : SlotId) :
    (s.leaveWaiting p n).stampCount = s.stampCount := by unfold State.leaveWaiting; (repeat' split) <;> simp
@[simp] theorem State.leaveWaiting_rights (p : PortId) (n : SlotId) :
    (s.leaveWaiting p n).rights = s.rights := by unfold State.leaveWaiting; (repeat' split) <;> simp
@[simp] theorem State.leaveWaiting_memsize (p : PortId) (n : SlotId) :
    (s.leaveWaiting p n).memsize = s.memsize := by unfold State.leaveWaiting; (repeat' split) <;> simp
@[simp] theorem State.leaveWaiting_stallLimit (p : PortId) (n : SlotId) :
    (s.leaveWaiting p n).stallLimit = s.stallLimit := by unfold State.leaveWaiting; (repeat' split) <;> simp
@[simp] theorem State.leaveWaiting_sent (p : PortId) (n : SlotId) :
    (s.leaveWaiting p n).sent = s.sent := by unfold State.leaveWaiting; (repeat' split) <;> simp
@[simp] theorem State.leaveWaiting_delivered (p : PortId) (n : SlotId) :
    (s.leaveWaiting p n).delivered = s.delivered := by unfold State.leaveWaiting; (repeat' split) <;> simp
@[simp] theorem State.leaveWaiting_pending (p : PortId) (n : SlotId) :
    (s.leaveWaiting p n).pending = s.pending := by unfold State.leaveWaiting; (repeat' split) <;> simp

/-! ## A binding is removed -/

@[simp] theorem State.detach_jobs (p : PortId) (x : PortState) :
    (s.detach p x).jobs = s.jobs := by unfold State.detach; split <;> simp
@[simp] theorem State.detach_mem (p : PortId) (x : PortState) :
    (s.detach p x).mem = s.mem := by unfold State.detach; split <;> simp
@[simp] theorem State.detach_faults (p : PortId) (x : PortState) :
    (s.detach p x).faults = s.faults := by unfold State.detach; split <;> simp
@[simp] theorem State.detach_seqCounter (p : PortId) (x : PortState) :
    (s.detach p x).seqCounter = s.seqCounter := by unfold State.detach; split <;> simp
@[simp] theorem State.detach_stampCount (p : PortId) (x : PortState) :
    (s.detach p x).stampCount = s.stampCount := by unfold State.detach; split <;> simp
@[simp] theorem State.detach_rights (p : PortId) (x : PortState) :
    (s.detach p x).rights = s.rights := by unfold State.detach; split <;> simp
@[simp] theorem State.detach_memsize (p : PortId) (x : PortState) :
    (s.detach p x).memsize = s.memsize := by unfold State.detach; split <;> simp
@[simp] theorem State.detach_stallLimit (p : PortId) (x : PortState) :
    (s.detach p x).stallLimit = s.stallLimit := by unfold State.detach; split <;> simp
@[simp] theorem State.detach_sent (p : PortId) (x : PortState) :
    (s.detach p x).sent = s.sent := by unfold State.detach; split <;> simp
@[simp] theorem State.detach_delivered (p : PortId) (x : PortState) :
    (s.detach p x).delivered = s.delivered := by unfold State.detach; split <;> simp
@[simp] theorem State.detach_pending (p : PortId) (x : PortState) :
    (s.detach p x).pending = s.pending := by unfold State.detach; split <;> simp

/-! ## Succession -/

@[simp] theorem State.succession_slots  :
    (s.succession).slots = s.slots := by unfold State.succession; (repeat' split) <;> simp
@[simp] theorem State.succession_jobs  : (s.succession).jobs = s.jobs := by unfold State.succession; (repeat' split) <;> simp
@[simp] theorem State.succession_mem  : (s.succession).mem = s.mem := by unfold State.succession; (repeat' split) <;> simp
@[simp] theorem State.succession_faults  :
    (s.succession).faults = s.faults := by unfold State.succession; (repeat' split) <;> simp
@[simp] theorem State.succession_seqCounter  :
    (s.succession).seqCounter = s.seqCounter := by unfold State.succession; (repeat' split) <;> simp
@[simp] theorem State.succession_stampCount  :
    (s.succession).stampCount = s.stampCount := by unfold State.succession; (repeat' split) <;> simp
@[simp] theorem State.succession_memsize  :
    (s.succession).memsize = s.memsize := by unfold State.succession; (repeat' split) <;> simp
@[simp] theorem State.succession_stallLimit  :
    (s.succession).stallLimit = s.stallLimit := by unfold State.succession; (repeat' split) <;> simp
@[simp] theorem State.succession_sent  : (s.succession).sent = s.sent := by unfold State.succession; (repeat' split) <;> simp
@[simp] theorem State.succession_delivered  :
    (s.succession).delivered = s.delivered := by unfold State.succession; (repeat' split) <;> simp
@[simp] theorem State.succession_pending  :
    (s.succession).pending = s.pending := by unfold State.succession; (repeat' split) <;> simp

/-! ## The roles of a port end -/

@[simp] theorem State.endRoles_slots (p : PortId) :
    (s.endRoles p).slots = s.slots := by unfold State.endRoles; split <;> simp
@[simp] theorem State.endRoles_jobs (p : PortId) : (s.endRoles p).jobs = s.jobs := by unfold State.endRoles; split <;> simp
@[simp] theorem State.endRoles_mem (p : PortId) : (s.endRoles p).mem = s.mem := by unfold State.endRoles; split <;> simp
@[simp] theorem State.endRoles_faults (p : PortId) :
    (s.endRoles p).faults = s.faults := by unfold State.endRoles; split <;> simp
@[simp] theorem State.endRoles_seqCounter (p : PortId) :
    (s.endRoles p).seqCounter = s.seqCounter := by unfold State.endRoles; split <;> simp
@[simp] theorem State.endRoles_stampCount (p : PortId) :
    (s.endRoles p).stampCount = s.stampCount := by unfold State.endRoles; split <;> simp
@[simp] theorem State.endRoles_memsize (p : PortId) :
    (s.endRoles p).memsize = s.memsize := by unfold State.endRoles; split <;> simp
@[simp] theorem State.endRoles_stallLimit (p : PortId) :
    (s.endRoles p).stallLimit = s.stallLimit := by unfold State.endRoles; split <;> simp
@[simp] theorem State.endRoles_sent (p : PortId) : (s.endRoles p).sent = s.sent := by unfold State.endRoles; split <;> simp
@[simp] theorem State.endRoles_delivered (p : PortId) :
    (s.endRoles p).delivered = s.delivered := by unfold State.endRoles; split <;> simp
@[simp] theorem State.endRoles_pending (p : PortId) :
    (s.endRoles p).pending = s.pending := by unfold State.endRoles; split <;> simp

/-! ## A violation is recorded -/

@[simp] theorem State.recordViolation_slots (p : PortId) (h : Bool) (c : Option LeaseKind) :
    (s.recordViolation p h c).slots = s.slots := by cases c <;> simp [State.recordViolation]
@[simp] theorem State.recordViolation_jobs (p : PortId) (h : Bool) (c : Option LeaseKind) :
    (s.recordViolation p h c).jobs = s.jobs := by cases c <;> simp [State.recordViolation]
@[simp] theorem State.recordViolation_mem (p : PortId) (h : Bool) (c : Option LeaseKind) :
    (s.recordViolation p h c).mem = s.mem := by cases c <;> simp [State.recordViolation]
@[simp] theorem State.recordViolation_stampCount (p : PortId) (h : Bool) (c : Option LeaseKind) :
    (s.recordViolation p h c).stampCount = s.stampCount := by cases c <;> simp [State.recordViolation]
@[simp] theorem State.recordViolation_rights (p : PortId) (h : Bool) (c : Option LeaseKind) :
    (s.recordViolation p h c).rights = s.rights := by cases c <;> simp [State.recordViolation]
@[simp] theorem State.recordViolation_memsize (p : PortId) (h : Bool) (c : Option LeaseKind) :
    (s.recordViolation p h c).memsize = s.memsize := by cases c <;> simp [State.recordViolation]
@[simp] theorem State.recordViolation_stallLimit (p : PortId) (h : Bool) (c : Option LeaseKind) :
    (s.recordViolation p h c).stallLimit = s.stallLimit := by cases c <;> simp [State.recordViolation]
@[simp] theorem State.recordViolation_sent (p : PortId) (h : Bool) (c : Option LeaseKind) :
    (s.recordViolation p h c).sent = s.sent := by cases c <;> simp [State.recordViolation]
@[simp] theorem State.recordViolation_delivered (p : PortId) (h : Bool) (c : Option LeaseKind) :
    (s.recordViolation p h c).delivered = s.delivered := by cases c <;> simp [State.recordViolation]
@[simp] theorem State.recordViolation_pending (p : PortId) (h : Bool) (c : Option LeaseKind) :
    (s.recordViolation p h c).pending = s.pending := by cases c <;> simp [State.recordViolation]

/-! ## A port enters FENCED -/

@[simp] theorem State.enterFenced_jobs (p : PortId) (c : Option LeaseKind) :
    (s.enterFenced p c).jobs = s.jobs := by simp [State.enterFenced]
@[simp] theorem State.enterFenced_mem (p : PortId) (c : Option LeaseKind) :
    (s.enterFenced p c).mem = s.mem := by simp [State.enterFenced]
@[simp] theorem State.enterFenced_stampCount (p : PortId) (c : Option LeaseKind) :
    (s.enterFenced p c).stampCount = s.stampCount := by simp [State.enterFenced]
@[simp] theorem State.enterFenced_memsize (p : PortId) (c : Option LeaseKind) :
    (s.enterFenced p c).memsize = s.memsize := by simp [State.enterFenced]
@[simp] theorem State.enterFenced_stallLimit (p : PortId) (c : Option LeaseKind) :
    (s.enterFenced p c).stallLimit = s.stallLimit := by simp [State.enterFenced]
@[simp] theorem State.enterFenced_sent (p : PortId) (c : Option LeaseKind) :
    (s.enterFenced p c).sent = s.sent := by simp [State.enterFenced]
@[simp] theorem State.enterFenced_delivered (p : PortId) (c : Option LeaseKind) :
    (s.enterFenced p c).delivered = s.delivered := by simp [State.enterFenced]
@[simp] theorem State.enterFenced_pending (p : PortId) (c : Option LeaseKind) :
    (s.enterFenced p c).pending = s.pending := by simp [State.enterFenced]

/-! ## A stall ends -/

@[simp] theorem State.endStall_slots (p : PortId) (f : AccessSlot → AccessSlot) :
    (s.endStall p f).slots = s.slots := by unfold State.endStall; split <;> simp
@[simp] theorem State.endStall_jobs (p : PortId) (f : AccessSlot → AccessSlot) :
    (s.endStall p f).jobs = s.jobs := by unfold State.endStall; split <;> simp
@[simp] theorem State.endStall_mem (p : PortId) (f : AccessSlot → AccessSlot) :
    (s.endStall p f).mem = s.mem := by unfold State.endStall; split <;> simp
@[simp] theorem State.endStall_seqCounter (p : PortId) (f : AccessSlot → AccessSlot) :
    (s.endStall p f).seqCounter = s.seqCounter := by unfold State.endStall; split <;> simp
@[simp] theorem State.endStall_stampCount (p : PortId) (f : AccessSlot → AccessSlot) :
    (s.endStall p f).stampCount = s.stampCount := by unfold State.endStall; split <;> simp
@[simp] theorem State.endStall_rights (p : PortId) (f : AccessSlot → AccessSlot) :
    (s.endStall p f).rights = s.rights := by unfold State.endStall; split <;> simp
@[simp] theorem State.endStall_memsize (p : PortId) (f : AccessSlot → AccessSlot) :
    (s.endStall p f).memsize = s.memsize := by unfold State.endStall; split <;> simp
@[simp] theorem State.endStall_stallLimit (p : PortId) (f : AccessSlot → AccessSlot) :
    (s.endStall p f).stallLimit = s.stallLimit := by unfold State.endStall; split <;> simp
@[simp] theorem State.endStall_sent (p : PortId) (f : AccessSlot → AccessSlot) :
    (s.endStall p f).sent = s.sent := by unfold State.endStall; split <;> simp
@[simp] theorem State.endStall_delivered (p : PortId) (f : AccessSlot → AccessSlot) :
    (s.endStall p f).delivered = s.delivered := by unfold State.endStall; split <;> simp
@[simp] theorem State.endStall_pending (p : PortId) (f : AccessSlot → AccessSlot) :
    (s.endStall p f).pending = s.pending := by unfold State.endStall; split <;> simp

/-! ## A head access is answered -/

@[simp] theorem State.answerHead_slots (p : PortId) (k : AccId) (a : Access) (x : ResponseKind) :
    (s.answerHead p k a x).slots = s.slots := rfl
@[simp] theorem State.answerHead_jobs (p : PortId) (k : AccId) (a : Access) (x : ResponseKind) :
    (s.answerHead p k a x).jobs = s.jobs := rfl
@[simp] theorem State.answerHead_mem (p : PortId) (k : AccId) (a : Access) (x : ResponseKind) :
    (s.answerHead p k a x).mem = s.mem := rfl
@[simp] theorem State.answerHead_faults (p : PortId) (k : AccId) (a : Access) (x : ResponseKind) :
    (s.answerHead p k a x).faults = s.faults := rfl
@[simp] theorem State.answerHead_seqCounter (p : PortId) (k : AccId) (a : Access) (x : ResponseKind) :
    (s.answerHead p k a x).seqCounter = s.seqCounter := rfl
@[simp] theorem State.answerHead_stampCount (p : PortId) (k : AccId) (a : Access) (x : ResponseKind) :
    (s.answerHead p k a x).stampCount = s.stampCount := rfl
@[simp] theorem State.answerHead_rights (p : PortId) (k : AccId) (a : Access) (x : ResponseKind) :
    (s.answerHead p k a x).rights = s.rights := rfl
@[simp] theorem State.answerHead_memsize (p : PortId) (k : AccId) (a : Access) (x : ResponseKind) :
    (s.answerHead p k a x).memsize = s.memsize := rfl
@[simp] theorem State.answerHead_stallLimit (p : PortId) (k : AccId) (a : Access) (x : ResponseKind) :
    (s.answerHead p k a x).stallLimit = s.stallLimit := rfl
@[simp] theorem State.answerHead_sent (p : PortId) (k : AccId) (a : Access) (x : ResponseKind) :
    (s.answerHead p k a x).sent = s.sent := rfl
@[simp] theorem State.answerHead_delivered (p : PortId) (k : AccId) (a : Access) (x : ResponseKind) :
    (s.answerHead p k a x).delivered = s.delivered := rfl
@[simp] theorem State.answerHead_pending (p : PortId) (k : AccId) (a : Access) (x : ResponseKind) :
    (s.answerHead p k a x).pending = s.pending := rfl

/-! ## A head access is issued -/

@[simp] theorem State.issueAccess_jobs (p : PortId) (k : AccId) (a : Access) (n : SlotId) (f : Frame) :
    (s.issueAccess p k a n f).jobs = s.jobs := rfl
@[simp] theorem State.issueAccess_faults (p : PortId) (k : AccId) (a : Access) (n : SlotId) (f : Frame) :
    (s.issueAccess p k a n f).faults = s.faults := rfl
@[simp] theorem State.issueAccess_seqCounter (p : PortId) (k : AccId) (a : Access) (n : SlotId) (f : Frame) :
    (s.issueAccess p k a n f).seqCounter = s.seqCounter := rfl
@[simp] theorem State.issueAccess_stampCount (p : PortId) (k : AccId) (a : Access) (n : SlotId) (f : Frame) :
    (s.issueAccess p k a n f).stampCount = s.stampCount := rfl
@[simp] theorem State.issueAccess_rights (p : PortId) (k : AccId) (a : Access) (n : SlotId) (f : Frame) :
    (s.issueAccess p k a n f).rights = s.rights := rfl
@[simp] theorem State.issueAccess_memsize (p : PortId) (k : AccId) (a : Access) (n : SlotId) (f : Frame) :
    (s.issueAccess p k a n f).memsize = s.memsize := rfl
@[simp] theorem State.issueAccess_stallLimit (p : PortId) (k : AccId) (a : Access) (n : SlotId) (f : Frame) :
    (s.issueAccess p k a n f).stallLimit = s.stallLimit := rfl
@[simp] theorem State.issueAccess_sent (p : PortId) (k : AccId) (a : Access) (n : SlotId) (f : Frame) :
    (s.issueAccess p k a n f).sent = s.sent := rfl
@[simp] theorem State.issueAccess_delivered (p : PortId) (k : AccId) (a : Access) (n : SlotId) (f : Frame) :
    (s.issueAccess p k a n f).delivered = s.delivered := rfl
@[simp] theorem State.issueAccess_pending (p : PortId) (k : AccId) (a : Access) (n : SlotId) (f : Frame) :
    (s.issueAccess p k a n f).pending = s.pending := rfl

/-! ## A head access stalls its port -/

@[simp] theorem State.stallPort_jobs (p : PortId) (k : AccId) (a : Access) (b : Binding) (f : FaultKind) :
    (s.stallPort p k a b f).jobs = s.jobs := by simp [State.stallPort]
@[simp] theorem State.stallPort_mem (p : PortId) (k : AccId) (a : Access) (b : Binding) (f : FaultKind) :
    (s.stallPort p k a b f).mem = s.mem := by simp [State.stallPort]
@[simp] theorem State.stallPort_stampCount (p : PortId) (k : AccId) (a : Access) (b : Binding) (f : FaultKind) :
    (s.stallPort p k a b f).stampCount = s.stampCount := by simp [State.stallPort]
@[simp] theorem State.stallPort_rights (p : PortId) (k : AccId) (a : Access) (b : Binding) (f : FaultKind) :
    (s.stallPort p k a b f).rights = s.rights := by simp [State.stallPort]
@[simp] theorem State.stallPort_memsize (p : PortId) (k : AccId) (a : Access) (b : Binding) (f : FaultKind) :
    (s.stallPort p k a b f).memsize = s.memsize := by simp [State.stallPort]
@[simp] theorem State.stallPort_stallLimit (p : PortId) (k : AccId) (a : Access) (b : Binding) (f : FaultKind) :
    (s.stallPort p k a b f).stallLimit = s.stallLimit := by simp [State.stallPort]
@[simp] theorem State.stallPort_sent (p : PortId) (k : AccId) (a : Access) (b : Binding) (f : FaultKind) :
    (s.stallPort p k a b f).sent = s.sent := by simp [State.stallPort]
@[simp] theorem State.stallPort_delivered (p : PortId) (k : AccId) (a : Access) (b : Binding) (f : FaultKind) :
    (s.stallPort p k a b f).delivered = s.delivered := by simp [State.stallPort]
@[simp] theorem State.stallPort_pending (p : PortId) (k : AccId) (a : Access) (b : Binding) (f : FaultKind) :
    (s.stallPort p k a b f).pending = s.pending := by simp [State.stallPort]

/-! ## A head access of an ATTACHED port is translated -/

@[simp] theorem State.translateBound_jobs (p : PortId) (k : AccId) (a : Access) (b : Binding) :
    (s.translateBound p k a b).jobs = s.jobs := by unfold State.translateBound; (repeat' split) <;> simp
@[simp] theorem State.translateBound_stampCount (p : PortId) (k : AccId) (a : Access) (b : Binding) :
    (s.translateBound p k a b).stampCount = s.stampCount := by unfold State.translateBound; (repeat' split) <;> simp
@[simp] theorem State.translateBound_rights (p : PortId) (k : AccId) (a : Access) (b : Binding) :
    (s.translateBound p k a b).rights = s.rights := by unfold State.translateBound; (repeat' split) <;> simp
@[simp] theorem State.translateBound_memsize (p : PortId) (k : AccId) (a : Access) (b : Binding) :
    (s.translateBound p k a b).memsize = s.memsize := by unfold State.translateBound; (repeat' split) <;> simp
@[simp] theorem State.translateBound_stallLimit (p : PortId) (k : AccId) (a : Access) (b : Binding) :
    (s.translateBound p k a b).stallLimit = s.stallLimit := by unfold State.translateBound; (repeat' split) <;> simp
@[simp] theorem State.translateBound_sent (p : PortId) (k : AccId) (a : Access) (b : Binding) :
    (s.translateBound p k a b).sent = s.sent := by unfold State.translateBound; (repeat' split) <;> simp
@[simp] theorem State.translateBound_delivered (p : PortId) (k : AccId) (a : Access) (b : Binding) :
    (s.translateBound p k a b).delivered = s.delivered := by unfold State.translateBound; (repeat' split) <;> simp
@[simp] theorem State.translateBound_pending (p : PortId) (k : AccId) (a : Access) (b : Binding) :
    (s.translateBound p k a b).pending = s.pending := by unfold State.translateBound; (repeat' split) <;> simp

/-! ## A head access is translated -/

@[simp] theorem State.translateHead_jobs (p : PortId) :
    (s.translateHead p).jobs = s.jobs := by unfold State.translateHead; (repeat' split) <;> simp
@[simp] theorem State.translateHead_stampCount (p : PortId) :
    (s.translateHead p).stampCount = s.stampCount := by unfold State.translateHead; (repeat' split) <;> simp
@[simp] theorem State.translateHead_rights (p : PortId) :
    (s.translateHead p).rights = s.rights := by unfold State.translateHead; (repeat' split) <;> simp
@[simp] theorem State.translateHead_memsize (p : PortId) :
    (s.translateHead p).memsize = s.memsize := by unfold State.translateHead; (repeat' split) <;> simp
@[simp] theorem State.translateHead_stallLimit (p : PortId) :
    (s.translateHead p).stallLimit = s.stallLimit := by unfold State.translateHead; (repeat' split) <;> simp
@[simp] theorem State.translateHead_sent (p : PortId) :
    (s.translateHead p).sent = s.sent := by unfold State.translateHead; (repeat' split) <;> simp
@[simp] theorem State.translateHead_delivered (p : PortId) :
    (s.translateHead p).delivered = s.delivered := by unfold State.translateHead; (repeat' split) <;> simp
@[simp] theorem State.translateHead_pending (p : PortId) :
    (s.translateHead p).pending = s.pending := by unfold State.translateHead; (repeat' split) <;> simp

/-! ## A DRAIN hold ends -/

/-- What no translation changes, the translations of a list of ports leave as it was. -/
theorem foldl_translateHead {α : Type} (f : State → α) (h : ∀ (u : State) (p : PortId), f (u.translateHead p) = f u)
    (ports : List PortId) (u : State) : f (ports.foldl State.translateHead u) = f u := by
  induction ports generalizing u with
  | nil => rfl
  | cons p rest ih => rw [List.foldl_cons, ih, h]

@[simp] theorem State.release_jobs (n : SlotId) (o : List PortId) : (s.release n o).jobs = s.jobs :=
  foldl_translateHead (·.jobs) (fun u p => u.translateHead_jobs p) _ s
@[simp] theorem State.release_stampCount (n : SlotId) (o : List PortId) : (s.release n o).stampCount = s.stampCount :=
  foldl_translateHead (·.stampCount) (fun u p => u.translateHead_stampCount p) _ s
@[simp] theorem State.release_rights (n : SlotId) (o : List PortId) : (s.release n o).rights = s.rights :=
  foldl_translateHead (·.rights) (fun u p => u.translateHead_rights p) _ s
@[simp] theorem State.release_memsize (n : SlotId) (o : List PortId) : (s.release n o).memsize = s.memsize :=
  foldl_translateHead (·.memsize) (fun u p => u.translateHead_memsize p) _ s
@[simp] theorem State.release_stallLimit (n : SlotId) (o : List PortId) : (s.release n o).stallLimit = s.stallLimit :=
  foldl_translateHead (·.stallLimit) (fun u p => u.translateHead_stallLimit p) _ s
@[simp] theorem State.release_sent (n : SlotId) (o : List PortId) : (s.release n o).sent = s.sent :=
  foldl_translateHead (·.sent) (fun u p => u.translateHead_sent p) _ s
@[simp] theorem State.release_delivered (n : SlotId) (o : List PortId) : (s.release n o).delivered = s.delivered :=
  foldl_translateHead (·.delivered) (fun u p => u.translateHead_delivered p) _ s
@[simp] theorem State.release_pending (n : SlotId) (o : List PortId) : (s.release n o).pending = s.pending :=
  foldl_translateHead (·.pending) (fun u p => u.translateHead_pending p) _ s

/-! ## The swap at a DRAIN boundary -/

@[simp] theorem State.swapDrain_jobs (n : SlotId) (c : PendingCommit) (o : List PortId) :
    (s.swapDrain n c o).jobs = s.jobs := by simp [State.swapDrain]
@[simp] theorem State.swapDrain_stampCount (n : SlotId) (c : PendingCommit) (o : List PortId) :
    (s.swapDrain n c o).stampCount = s.stampCount := by simp [State.swapDrain]
@[simp] theorem State.swapDrain_rights (n : SlotId) (c : PendingCommit) (o : List PortId) :
    (s.swapDrain n c o).rights = s.rights := by simp [State.swapDrain]
@[simp] theorem State.swapDrain_memsize (n : SlotId) (c : PendingCommit) (o : List PortId) :
    (s.swapDrain n c o).memsize = s.memsize := by simp [State.swapDrain]
@[simp] theorem State.swapDrain_stallLimit (n : SlotId) (c : PendingCommit) (o : List PortId) :
    (s.swapDrain n c o).stallLimit = s.stallLimit := by simp [State.swapDrain]
@[simp] theorem State.swapDrain_sent (n : SlotId) (c : PendingCommit) (o : List PortId) :
    (s.swapDrain n c o).sent = s.sent := by simp [State.swapDrain]
@[simp] theorem State.swapDrain_delivered (n : SlotId) (c : PendingCommit) (o : List PortId) :
    (s.swapDrain n c o).delivered = s.delivered := by simp [State.swapDrain]
@[simp] theorem State.swapDrain_pending (n : SlotId) (c : PendingCommit) (o : List PortId) :
    (s.swapDrain n c o).pending = s.pending := by simp [State.swapDrain]

/-! ## The boundary is tested -/

@[simp] theorem State.testBoundary_jobs (n : SlotId) (o : List PortId) :
    (s.testBoundary n o).jobs = s.jobs := by unfold State.testBoundary; (repeat' split) <;> simp
@[simp] theorem State.testBoundary_stampCount (n : SlotId) (o : List PortId) :
    (s.testBoundary n o).stampCount = s.stampCount := by unfold State.testBoundary; (repeat' split) <;> simp
@[simp] theorem State.testBoundary_rights (n : SlotId) (o : List PortId) :
    (s.testBoundary n o).rights = s.rights := by unfold State.testBoundary; (repeat' split) <;> simp
@[simp] theorem State.testBoundary_memsize (n : SlotId) (o : List PortId) :
    (s.testBoundary n o).memsize = s.memsize := by unfold State.testBoundary; (repeat' split) <;> simp
@[simp] theorem State.testBoundary_stallLimit (n : SlotId) (o : List PortId) :
    (s.testBoundary n o).stallLimit = s.stallLimit := by unfold State.testBoundary; (repeat' split) <;> simp
@[simp] theorem State.testBoundary_sent (n : SlotId) (o : List PortId) :
    (s.testBoundary n o).sent = s.sent := by unfold State.testBoundary; (repeat' split) <;> simp
@[simp] theorem State.testBoundary_delivered (n : SlotId) (o : List PortId) :
    (s.testBoundary n o).delivered = s.delivered := by unfold State.testBoundary; (repeat' split) <;> simp
@[simp] theorem State.testBoundary_pending (n : SlotId) (o : List PortId) :
    (s.testBoundary n o).pending = s.pending := by unfold State.testBoundary; (repeat' split) <;> simp

/-! ## The in-flight count falls -/

@[simp] theorem State.lowerInFlight_jobs (n : SlotId) (o : List PortId) :
    (s.lowerInFlight n o).jobs = s.jobs := by simp [State.lowerInFlight]
@[simp] theorem State.lowerInFlight_stampCount (n : SlotId) (o : List PortId) :
    (s.lowerInFlight n o).stampCount = s.stampCount := by simp [State.lowerInFlight]
@[simp] theorem State.lowerInFlight_rights (n : SlotId) (o : List PortId) :
    (s.lowerInFlight n o).rights = s.rights := by simp [State.lowerInFlight]
@[simp] theorem State.lowerInFlight_memsize (n : SlotId) (o : List PortId) :
    (s.lowerInFlight n o).memsize = s.memsize := by simp [State.lowerInFlight]
@[simp] theorem State.lowerInFlight_stallLimit (n : SlotId) (o : List PortId) :
    (s.lowerInFlight n o).stallLimit = s.stallLimit := by simp [State.lowerInFlight]
@[simp] theorem State.lowerInFlight_sent (n : SlotId) (o : List PortId) :
    (s.lowerInFlight n o).sent = s.sent := by simp [State.lowerInFlight]
@[simp] theorem State.lowerInFlight_delivered (n : SlotId) (o : List PortId) :
    (s.lowerInFlight n o).delivered = s.delivered := by simp [State.lowerInFlight]
@[simp] theorem State.lowerInFlight_pending (n : SlotId) (o : List PortId) :
    (s.lowerInFlight n o).pending = s.pending := by simp [State.lowerInFlight]

/-! ## A slot is unsealed -/

@[simp] theorem State.unseal_jobs (n : SlotId) (c : PendingCommit) (o : List PortId) :
    (s.unseal n c o).jobs = s.jobs := by unfold State.unseal; split <;> simp
@[simp] theorem State.unseal_stampCount (n : SlotId) (c : PendingCommit) (o : List PortId) :
    (s.unseal n c o).stampCount = s.stampCount := by unfold State.unseal; split <;> simp
@[simp] theorem State.unseal_rights (n : SlotId) (c : PendingCommit) (o : List PortId) :
    (s.unseal n c o).rights = s.rights := by unfold State.unseal; split <;> simp
@[simp] theorem State.unseal_memsize (n : SlotId) (c : PendingCommit) (o : List PortId) :
    (s.unseal n c o).memsize = s.memsize := by unfold State.unseal; split <;> simp
@[simp] theorem State.unseal_stallLimit (n : SlotId) (c : PendingCommit) (o : List PortId) :
    (s.unseal n c o).stallLimit = s.stallLimit := by unfold State.unseal; split <;> simp
@[simp] theorem State.unseal_sent (n : SlotId) (c : PendingCommit) (o : List PortId) :
    (s.unseal n c o).sent = s.sent := by unfold State.unseal; split <;> simp
@[simp] theorem State.unseal_delivered (n : SlotId) (c : PendingCommit) (o : List PortId) :
    (s.unseal n c o).delivered = s.delivered := by unfold State.unseal; split <;> simp
@[simp] theorem State.unseal_pending (n : SlotId) (c : PendingCommit) (o : List PortId) :
    (s.unseal n c o).pending = s.pending := by unfold State.unseal; split <;> simp

/-! ## A head access leaves the hold it was in -/

@[simp] theorem State.translateReleased_jobs (p : PortId) (c : Condition) :
    (s.translateReleased p c).jobs = s.jobs := by unfold State.translateReleased; split <;> simp
@[simp] theorem State.translateReleased_stampCount (p : PortId) (c : Condition) :
    (s.translateReleased p c).stampCount = s.stampCount := by unfold State.translateReleased; split <;> simp
@[simp] theorem State.translateReleased_rights (p : PortId) (c : Condition) :
    (s.translateReleased p c).rights = s.rights := by unfold State.translateReleased; split <;> simp
@[simp] theorem State.translateReleased_memsize (p : PortId) (c : Condition) :
    (s.translateReleased p c).memsize = s.memsize := by unfold State.translateReleased; split <;> simp
@[simp] theorem State.translateReleased_stallLimit (p : PortId) (c : Condition) :
    (s.translateReleased p c).stallLimit = s.stallLimit := by unfold State.translateReleased; split <;> simp
@[simp] theorem State.translateReleased_sent (p : PortId) (c : Condition) :
    (s.translateReleased p c).sent = s.sent := by unfold State.translateReleased; split <;> simp
@[simp] theorem State.translateReleased_delivered (p : PortId) (c : Condition) :
    (s.translateReleased p c).delivered = s.delivered := by unfold State.translateReleased; split <;> simp
@[simp] theorem State.translateReleased_pending (p : PortId) (c : Condition) :
    (s.translateReleased p c).pending = s.pending := by unfold State.translateReleased; split <;> simp

end Sys2Proof.Machine
end

