-- ==== Sys2Proof/Laws/Ops.lean ====
section
/-! SUPPORT. What the shared operations can do, each said once: the provers cite these lemmas instead of unfolding the
operations. -/

namespace Sys2Proof.Machine

/-! ## Numbers that name something -/

theorem slotOf_eq_some {b : Byte} {n : SlotId} (h : b.toNat = n.val) : slotOf b = some n := by
  have := n.isLt
  unfold slotOf
  rw [dif_pos (by omega)]
  congr

theorem slotOf_eq_none {b : Byte} (h : 16 ≤ b.toNat) : slotOf b = none := by
  unfold slotOf
  rw [dif_neg (by omega)]

theorem portOf_eq_some {b : Byte} {p : PortId} (h : b.toNat = p.val) : portOf b = some p := by
  have := p.isLt
  unfold portOf
  rw [dif_pos (by omega)]
  congr

theorem portOf_eq_none {b : Byte} (h : 6 ≤ b.toNat) : portOf b = none := by
  unfold portOf
  rw [dif_neg (by omega)]

theorem pageOf_eq {b : Byte} {page : Page} (h : b.toNat = page.val) : pageOf b = page := by
  apply Fin.ext
  simp [pageOf, ← h]

/-! ## Commands taken and completed -/

/-- A row that takes the record at the head answers what its body makes of the command and the queue's rest. -/
theorem take_of_heads {s : State} {p : PortId} {r : CommandRecord} {c : Command} {rest : List CommandRecord}
    {body : Taken → Command → State → Option State} (h : s.Heads p r c rest) (u : State)
    (hb : body { port := p, tag := r.tag, code := r.code } c (s.taken p rest) = some u) : s.take p body = u := by
  obtain ⟨h1, h2⟩ := h
  unfold State.take
  rw [h1]
  simp only [h2]
  have e : (s.modifyPort p fun q => { q with commands := rest }) = s.taken p rest := rfl
  rw [e, hb]
  rfl

/-- A row that does not take the record at the head changes nothing. -/
theorem take_of_other {s : State} {p : PortId} {r : CommandRecord} {c : Command} {rest : List CommandRecord}
    {body : Taken → Command → State → Option State} (h : s.Heads p r c rest) (hb : ∀ t u, body t c u = none) :
    s.take p body = s := by
  obtain ⟨h1, h2⟩ := h
  unfold State.take
  rw [h1]
  simp only [h2, hb]
  rfl

/-- With an empty command queue nothing is taken. -/
theorem take_of_empty {s : State} {p : PortId} {body : Taken → Command → State → Option State}
    (h : s.ports[p].commands = []) : s.take p body = s := by
  unfold State.take State.port
  rw [h]

theorem complete_eq_joined (s : State) (p : PortId) (r : CommandRecord) (status : Status) (result : Option Result) :
    s.complete { port := p, tag := r.tag, code := r.code } status result = s.joined p (r.completion status result) := rfl

@[simp] theorem taken_slots (s : State) (p : PortId) (rest : List CommandRecord) : (s.taken p rest).slots = s.slots := rfl
@[simp] theorem taken_jobs (s : State) (p : PortId) (rest : List CommandRecord) : (s.taken p rest).jobs = s.jobs := rfl
@[simp] theorem taken_mem (s : State) (p : PortId) (rest : List CommandRecord) : (s.taken p rest).mem = s.mem := rfl
@[simp] theorem taken_faults (s : State) (p : PortId) (rest : List CommandRecord) : (s.taken p rest).faults = s.faults := rfl
@[simp] theorem taken_rights (s : State) (p : PortId) (rest : List CommandRecord) : (s.taken p rest).rights = s.rights := rfl
@[simp] theorem taken_memsize (s : State) (p : PortId) (rest : List CommandRecord) :
    (s.taken p rest).memsize = s.memsize := rfl
@[simp] theorem taken_loadHeld (s : State) (p : PortId) (rest : List CommandRecord) (n : SlotId) :
    (s.taken p rest).loadHeld n = s.loadHeld n := rfl

theorem taken_state (s : State) (p : PortId) (rest : List CommandRecord) (q : PortId) :
    (s.taken p rest).ports[q].state = s.ports[q].state := by
  simp only [State.taken, Fin.getElem_fin, Vector.getElem_set]
  split <;> simp_all

theorem taken_params (s : State) (p : PortId) (rest : List CommandRecord) (q : PortId) :
    (s.taken p rest).ports[q].params = s.ports[q].params := by
  simp only [State.taken, Fin.getElem_fin, Vector.getElem_set]
  split <;> simp_all

theorem taken_accessSlots (s : State) (p : PortId) (rest : List CommandRecord) (q : PortId) :
    (s.taken p rest).ports[q].slots = s.ports[q].slots := by
  simp only [State.taken, Fin.getElem_fin, Vector.getElem_set]
  split <;> simp_all

theorem isSupervisor_of_holder {h : Holdings} {p : PortId} (hp : h.holder = some p) : h.isSupervisor p = true := by
  simp [Holdings.isSupervisor, hp]

theorem isSupervisor_of_not_holder {h : Holdings} {p : PortId} (hp : h.holder ≠ some p) : h.isSupervisor p = false := by
  simp [Holdings.isSupervisor, hp]

/-- A supervisor-only command is carried out for the supervisor and completes NOT_SUPERVISOR for any other port. -/
theorem supervisorOnly_eq (s : State) (t : Taken) (carryOut : State → State) :
    s.supervisorOnly t carryOut = if s.rights.holder = some t.port then carryOut s else s.complete t .notSupervisor := by
  unfold State.supervisorOnly
  by_cases h : s.rights.holder = some t.port
  · rw [if_pos h, if_pos (isSupervisor_of_holder h)]
  · rw [if_neg h, if_neg (by rw [isSupervisor_of_not_holder h]; decide)]

/-! ## Conditions of a slot -/

theorem isSealed_iff (s : State) (n : SlotId) : (s.slots[n]).condition.isSealed = true ↔ s.SealedAt n := by
  unfold State.SealedAt State.slot
  cases s.slots[n].condition <;> simp [Condition.isSealed]

theorem loadHeld_iff (s : State) (n : SlotId) : s.loadHeld n = true ↔ s.LoadHeldAt n := by
  simp [State.loadHeld, State.LoadHeldAt]

theorem holdsTranslation_iff (s : State) (n : SlotId) : (s.slot n).condition.holdsTranslation = true ↔ s.DrainHeld n := by
  unfold State.DrainHeld Condition.holdsTranslation
  cases (s.slot n).condition <;> simp
  rename_i c
  cases c.boundary <;> simp

/-! ## Rights -/

theorem moveRights_eq_rightsMoved (s : State) (h : Holdings) : s.moveRights h = s.rightsMoved h := by
  unfold State.moveRights State.rightsMoved
  congr 1
  apply congrArg
  funext q
  by_cases e : s.rights.role q = h.role q
  · rw [if_pos e, if_pos e.symm]
  · rw [if_neg e, if_neg fun x => e x.symm]
    rfl

/-! ## Translation, the swap and the waiting sets -/

@[simp] theorem translated_eq (s : State) (p : PortId) : s.translated p = s.translateHead p := rfl

/-- A port without a head access translates nothing. -/
theorem translateHead_of_none {s : State} {p : PortId} (h : s.ports[p].head? = none) : s.translateHead p = s := by
  unfold State.translateHead State.port
  rw [h]

/-- The head access of an ATTACHED port is decided through its binding. -/
theorem translateHead_of_attached {s : State} {p : PortId} {k : AccId} {a : Access} {b : Binding}
    (h : s.ports[p].head? = some (k, a)) (hb : s.ports[p].state = .attached b) :
    s.translateHead p = s.translateBound p k a b := by
  unfold State.translateHead State.port
  rw [h]
  simp only [hb]

/-- A head access at a DRAIN seal waits. -/
theorem translateBound_of_held {s : State} {b : Binding} (p : PortId) (k : AccId) (a : Access) (h : s.DrainHeld b.slot) :
    s.translateBound p k a b = s := by
  unfold State.translateBound
  rw [if_pos ((holdsTranslation_iff s b.slot).2 h)]

theorem mem_attachedTo (s : State) (n : SlotId) (p : PortId) :
    p ∈ s.attachedTo n ↔ ∃ b, s.ports[p].state = .attached b ∧ b.slot = n := by
  unfold State.attachedTo State.port
  rw [List.mem_filter]
  generalize s.ports[p].state = x
  cases x <;> simp [PortState.isAttached, PortState.boundSlot?, PortState.binding?]

theorem released_eq (s : State) (n : SlotId) (first : List PortId) : s.released n first = s.release n first := by
  unfold State.released State.release State.attachedTo
  simp only [List.mem_filter, List.mem_finRange, true_and, Bool.decide_eq_true]
  rfl

theorem swapMark_eq (s : State) (n : SlotId) (c : PendingCommit) : s.swapMark n c = s.markSwapped n c := rfl

theorem swapDrain_eq (s : State) (n : SlotId) (c : PendingCommit) (first : List PortId) :
    s.swapDrain n c first = s.drainSwapped n c first := by
  unfold State.swapDrain State.drainSwapped
  rw [released_eq]
  rfl

/-- A slot that is not SEALED has no boundary to reach. -/
theorem testBoundary_of_not_sealed {s : State} {n : SlotId} (first : List PortId)
    (h : s.slots[n].condition = .clean ∨ s.slots[n].condition = .dirty) : s.testBoundary n first = s := by
  unfold State.testBoundary State.slot
  rcases h with h | h <;> rw [h]

/-- The test of a DRAIN boundary. -/
theorem testBoundary_of_drain {s : State} {n : SlotId} {c : PendingCommit} (first : List PortId)
    (hc : s.slots[n].condition = .sealed c) (hb : c.boundary = .drain) :
    s.testBoundary n first = if s.slots[n].inFlight = 0 then s.drainSwapped n c first else s := by
  unfold State.testBoundary State.slot PendingCommit.reached
  simp only [hc, hb, swapDrain_eq, decide_eq_true_eq]

/-- The test of a MARK boundary. -/
theorem testBoundary_of_mark {s : State} {n : SlotId} {c : PendingCommit} {waiting : List PortId} (first : List PortId)
    (hc : s.slots[n].condition = .sealed c) (hb : c.boundary = .mark waiting) :
    s.testBoundary n first = if waiting = [] then s.markSwapped n c else s := by
  unfold State.testBoundary State.slot PendingCommit.reached
  simp only [hc, hb, swapMark_eq, List.isEmpty_iff]

/-- A port that is no member of the slot's waiting set leaves nothing. -/
theorem leaveWaiting_of_not_mem {s : State} {p : PortId} {n : SlotId} (h : p ∉ s.slots[n].condition.waiting) :
    s.leaveWaiting p n = s := by
  unfold State.leaveWaiting State.slot
  split
  · rename_i c hc
    split
    · rfl
    · rename_i waiting hb
      rw [if_neg]
      intro hp
      apply h
      rw [show s.slots[n].condition = _ from hc]
      unfold Condition.waiting
      simp only [hb, hp]
  · rfl
  · rfl

/-- A member leaves the waiting set, and its last member brings the swap. -/
theorem leaveWaiting_of_mem {s : State} {p : PortId} {n : SlotId} {c : PendingCommit} {waiting : List PortId}
    (hc : s.slots[n].condition = .sealed c) (hb : c.boundary = .mark waiting) (h : p ∈ waiting) :
    s.leaveWaiting p n =
      if ∀ q ∈ waiting, q = p then s.markSwapped n c
      else
        { s with
          slots := s.slots.set n
            { s.slots[n] with condition := .sealed { c with boundary := .mark (waiting.filter (· ≠ p)) } } } := by
  unfold State.leaveWaiting State.slot
  simp only [hc, hb, h, if_true]
  have e : (waiting.filter (· ≠ p)).isEmpty = true ↔ ∀ q ∈ waiting, q = p := by simp
  by_cases hw : ∀ q ∈ waiting, q = p
  · rw [if_pos hw, if_pos (e.2 hw)]
    rfl
  · rw [if_neg hw, if_neg fun x => hw (e.1 x)]
    rfl

/-! ## Bindings -/

/-- The end of the binding of a port that is bound. -/
theorem detach_of_bound {s : State} {p : PortId} {st : PortState} {n : SlotId}
    (h : s.ports[p].state.boundSlot? = some n) :
    s.detach p st = ((s.modifyPort p ({ · with state := st })).lowerBinders n).leaveWaiting p n := by
  unfold State.detach State.port
  rw [h]

theorem detach_of_unbound {s : State} {p : PortId} {st : PortState} (h : s.ports[p].state.boundSlot? = none) :
    s.detach p st = s.modifyPort p ({ · with state := st }) := by
  unfold State.detach State.port
  rw [h]

/-! ## The end of a stall -/

/-- The end of a stall with the port ATTACHED, as one update. -/
theorem endStall_of_stalled {s : State} {q : PortId} {b : Binding} {st : Stall} {a : AccessSlot} (f : AccessSlot → AccessSlot)
    (h : s.ports[q].state = .stalled b st) (ha : s.ports[q].slots[st.access] = some a) :
    s.endStall q f =
      { s with
        faults := s.faultsWithoutAccess q
        ports := s.ports.set q
          { s.ports[q] with
            slots := s.ports[q].slots.set st.access (some (f a))
            state := .attached
              { slot := b.slot
                lease :=
                  { phase := .fresh, remaining := s.ports[q].params.period, expected := b.lease.expected
                    warned := false } } } } := by
  unfold State.endStall
  simp only [State.port, h]
  unfold State.modifyPort State.retireAccess
  simp only [ha, Option.map_some]
  rfl

/-! ## Access slots -/

theorem freeSlot_eq_some (r : PortRec) (pick k : AccId)
    (h : r.slots[pick] = none ∧ k = pick ∨ r.slots[pick] ≠ none ∧ r.slots[k] = none ∧ ∀ j < k, r.slots[j] ≠ none) :
    r.freeSlot pick = some k := by
  unfold PortRec.freeSlot
  rcases h with ⟨h, rfl⟩ | ⟨h1, h2, h3⟩
  · rw [List.find?_cons_of_pos]
    simp only [h]
    rfl
  · rw [List.find?_cons_of_neg (by simpa using h1), List.find?_eq_some_iff_getElem]
    refine ⟨by rw [h2]; rfl, k.val, by simp, by simp, ?_⟩
    intro j hj
    simp
    exact Option.isSome_iff_ne_none.2 (h3 ⟨j, by omega⟩ (Fin.lt_def.2 (by simpa using hj)))

theorem freeSlot_eq_none (r : PortRec) (pick : AccId) (h : ∀ j : AccId, r.slots[j] ≠ none) : r.freeSlot pick = none := by
  unfold PortRec.freeSlot
  rw [List.find?_eq_none]
  intro k _
  simp
  exact h k

/-- With all eight slots occupied every request stays on the channel. -/
theorem acceptFrom_of_full (r : PortRec) (held : List HeldRequest) (h : ∀ j : AccId, r.slots[j] ≠ none) :
    r.acceptFrom held = { r with requests := held } := by
  cases held with
  | nil => rfl
  | cons x t => simp only [PortRec.acceptFrom, freeSlot_eq_none r x.pick h]

/-- With one slot free the oldest request takes it and the others stay. -/
theorem acceptFrom_of_one_free (r : PortRec) (k : AccId) (hk : r.slots[k] = none)
    (hf : ∀ j : AccId, j ≠ k → r.slots[j] ≠ none) (h : HeldRequest) (more : List HeldRequest) :
    r.acceptFrom (h :: more) =
      { r with
        slots := r.slots.set k (some { access := h.access, state := .untranslated })
        arrival := r.arrival ++ [k], requests := more } := by
  have e : r.freeSlot h.pick = some k := by
    apply freeSlot_eq_some
    by_cases e : h.pick = k
    · left
      subst e
      exact ⟨hk, rfl⟩
    · right
      exact ⟨hf _ e, hk, fun j hj => hf j (Fin.ne_of_lt hj)⟩
  simp only [PortRec.acceptFrom, e]
  rw [acceptFrom_of_full]
  · rfl
  · intro j
    by_cases e : k = j
    · subst e
      simp [PortRec.accept]
    · have : k.val ≠ j.val := fun x => e (Fin.ext x)
      simp only [PortRec.accept, Fin.getElem_fin]
      rw [Vector.getElem_set_ne _ _ this]
      exact hf j (Ne.symm e)

theorem shapeChecks_iff (a : Access) : shapeChecks a = true ↔ InShape a := by
  unfold shapeChecks InShape accessOffset Config.pageBytes
  rw [Bool.and_eq_true]
  exact ⟨fun h => ⟨of_decide_eq_true h.1, of_decide_eq_true h.2⟩, fun h => ⟨decide_eq_true h.1, decide_eq_true h.2⟩⟩

theorem accessPage_eq (a : Access) (page : Page) (h : page.val = a.addr.toNat / 4096) : accessPage a = page := by
  have := a.addr.isLt
  apply Fin.ext
  simp [accessPage, Config.pageBytes, h]
  omega

theorem entryFault_eq_none {memsize : Nat} {e : Entry} {kind : AccessKind} (h : e.rights.Grants kind)
    (hf : e.frame.toNat < memsize) : entryFault memsize e kind = none := by
  have hn : ¬ memsize ≤ e.frame.toNat := by omega
  unfold entryFault
  rcases h with h | ⟨h, rfl⟩
  · rw [h]
    cases kind <;> simp only [hn, if_false]
  · rw [h]
    simp only [hn, if_false]

/-! ## The memory port -/

theorem ready_iff (s : State) (q : Fin 7) : s.ready q = true ↔ s.Ready q := by
  unfold State.ready State.Ready requesterPort
  by_cases h : q.val < 6
  · simp only [h, dite_true]
    have hq : q ≠ 6 := by
      intro e
      subst e
      simp at h
    constructor
    · intro hh
      exact .inl ⟨⟨q.val, h⟩, rfl, by simpa using hh⟩
    · rintro (⟨p, hp, hh⟩ | ⟨h, _⟩)
      · have e : p = ⟨q.val, h⟩ := Fin.ext hp
        subst e
        simpa using hh
      · exact absurd h hq
  · simp only [h, dite_false]
    have h6 : q = 6 := by
      have := q.isLt
      apply Fin.ext
      show q.val = 6
      omega
    constructor
    · intro hh
      refine .inr ⟨h6, ?_⟩
      unfold State.readRequest at hh
      cases hj : s.jobs with
      | nil => simp [hj] at hh
      | cons j rest =>
        simp only [hj] at hh
        cases hs : j.state with
        | queued => simp [hs] at hh
        | running done read => cases read with
          | requested => exact ⟨j, rest, done, rfl, hs⟩
          | outstanding m => simp [hs] at hh
    · rintro (⟨p, hp, _⟩ | ⟨_, j, rest, done, hj, hs⟩)
      · exact absurd (hp ▸ p.isLt) h
      · simp [State.readRequest, hj, hs]

/-- The entry an answer answers is the one found by its number, and the one removed. -/
theorem find_of_answers {s : State} {a : MemAnswer} {before after : List OutEntry} {e : OutEntry}
    (h : s.Answers a before e after) :
    s.mem.entries.find? (·.number = a.number) = some e ∧
      s.mem.removeEntry a.number = { s.mem with entries := before ++ after } := by
  obtain ⟨-, h2, h3, h4⟩ := h
  refine ⟨?_, ?_⟩
  · have hb : before.find? (·.number = a.number) = none := by
      rw [List.find?_eq_none]
      intro x hx
      simpa using h4 x hx
    rw [h2, List.find?_append, hb]
    simp [h3]
  · unfold MemPort.removeEntry
    congr 1
    rw [h2, List.eraseP_append_right]
    · simp [h3]
    · intro x hx
      simpa using h4 x hx

/-- An answer that is that of an entry removes it and goes where its requester says. -/
theorem memoryAnswer_of_answers {s : State} {a : MemAnswer} {before after : List OutEntry} {e : OutEntry}
    (h : s.Answers a before e after) (first : List PortId) :
    s.memoryAnswer a first =
      State.answerEntry { s with mem := { s.mem with entries := before ++ after } } e.requester a.outcome a.data first := by
  unfold State.memoryAnswer
  rw [if_pos h.1]
  simp only [(find_of_answers h).1, (find_of_answers h).2]

/-- Each port is taken exactly once in every order. -/
theorem count_portOrder (first : List PortId) (p : PortId) : (portOrder first).count p = 1 := by
  unfold portOrder
  rw [List.count_append]
  by_cases h : p ∈ first
  · rw [List.count_eq_one_of_mem (List.nodup_dedup _) (by simpa using h), List.count_eq_zero_of_not_mem (by simp [h])]
  · rw [List.count_eq_zero_of_not_mem (by simpa using h),
      List.count_eq_one_of_mem ((List.nodup_finRange 6).filter _) (by simp [h])]

/-! ## The load queue -/

theorem startHead_of_queued {jobs : List Job} (h : ∀ k ∈ jobs, k.state = .queued) : startHead jobs = started jobs := by
  cases jobs with
  | nil => rfl
  | cons j t => simp [startHead, started, h j (List.mem_cons_self ..)]

/-- The end of the RUNNING job, with QUEUED jobs behind it. -/
theorem endRunning_of_cons {s : State} {j : Job} {rest : List Job} (status : Status) (done : Nat) (h : s.jobs = j :: rest)
    (hq : ∀ k ∈ rest, k.state = .queued) :
    s.endRunning status done = State.loadCompleted { s with jobs := started rest } j status done := by
  unfold State.endRunning
  simp only [h, startHead_of_queued hq]
  rfl

/-- An ABORT_LOAD over QUEUED jobs ends exactly those that name the slot. -/
theorem abortSweep_of_queued (n : SlotId) {jobs : List Job} (h : ∀ k ∈ jobs, k.state = .queued) :
    abortSweep n jobs =
      { stay := jobs.filter (·.slot ≠ n), ended := (jobs.filter (·.slot = n)).map (·, 0)
        taken := (jobs.filter (·.slot = n)).length } := by
  induction jobs with
  | nil => rfl
  | cons j t ih =>
    have hj := h j (List.mem_cons_self ..)
    unfold abortSweep
    rw [ih fun k hk => h k (List.mem_cons_of_mem _ hk)]
    by_cases e : j.slot = n <;> simp [e, Job.abortStep, hj]

/-! ## Words -/

/-- The bits of a field of an aperture word. -/
theorem getLsbD_field (lo width v i : Nat) :
    (field lo width v).getLsbD i =
      (decide (i < 32) && decide (lo ≤ i) && decide (i - lo < width) && v.testBit (i - lo)) := by
  simp only [field, BitVec.getLsbD_shiftLeft, BitVec.getLsbD_ofNat, Nat.testBit_mod_two_pow]
  by_cases h1 : i < 32
  · by_cases h2 : lo ≤ i
    · have h3 : i - lo < 32 := by omega
      have h4 : ¬ i < lo := by omega
      simp [h1, h2, h3, h4]
    · have h4 : i < lo := by omega
      simp [h2, h4]
  · simp [h1]

end Sys2Proof.Machine
end

