-- ==== Sys2Proof/Tests/Slice0.lean ====
section
/-! SUPPORT. Small tests of single happenings, with results taken from the manual's own examples and tables, the smoke test of
WellFormed, and for every statement with hypotheses a concrete state that meets them. -/

namespace Sys2Proof.Tests

open Sys2Proof.Machine

/- The kernel evaluates these theorems one after another: side by side they ask for more memory than a check allows. -/
set_option Elab.async false

/-! ## Building small states -/

/-- The state after a command, when it goes on. -/
def after (i : Instr) (s : State) : Option State :=
  match exec i s with
  | .next t => some t
  | .fault _ | .refused _ => none

/-- `s` with the record of command `c`, tag 0x21, alone in port `p`'s command queue. -/
def posted (p : PortId) (c : Command) (s : State) : State :=
  s.modifyPort p fun r => { r with commands := [c.record 0x21], outstanding := 1 }

/-- `s` with port `p` ATTACHED to slot `n` under lease `l`. -/
def attach (p : PortId) (n : SlotId) (l : Lease) (s : State) : State :=
  (s.modifyPort p fun r => { r with state := .attached { slot := n, lease := l } }).modifySlot n fun m =>
    { m with binders := m.binders + 1 }

/-- A lease in a phase with this many ticks remaining and an expected number. -/
def lease (phase : Phase) (remaining : Nat) (expected : BitVec 8) : Lease :=
  { phase := phase, remaining := remaining, expected := expected, warned := false }

/-- `s` with an entry in both images of slot `n`. -/
def mapped (n : SlotId) (page : Page) (frame : Frame) (rights : Rights) (s : State) : State :=
  s.modifySlot n fun m =>
    { m with
      live := m.live.set page { frame := frame, rights := rights }
      staged := m.staged.set page { frame := frame, rights := rights } }

/-- `s` with slot `n` in this condition. -/
def conditioned (n : SlotId) (c : Condition) (s : State) : State := s.modifySlot n ({ · with condition := c })

/-- `s` with this access at the end of port `p`'s arrival order, in slot `k`. -/
def holding (p : PortId) (k : AccId) (a : Access) (st : AccessState) (s : State) : State :=
  s.modifyPort p fun r =>
    { r with slots := r.slots.set k (some { access := a, state := st }), arrival := r.arrival ++ [k] }

/-- `s` with port `p` STALLED on the access in slot `k` under record `seq`, which is in the fault queue. -/
def stall (p : PortId) (n : SlotId) (k : AccId) (a : Access) (seq : BitVec 16) (timer : Option Nat) (s : State) : State :=
  let t := (holding p k a .stalled s).modifyPort p fun r =>
    { r with state := .stalled { slot := n, lease := lease .frozen 70 2 } { access := k, seq := seq, timer := timer } }
  State.modifySlot
    { t with faults := t.faults ++ [{ seq := seq, port := p, stamp := 5000, body := .access .noEntry n 7 .read 0x05 }] } n
    fun m => { m with binders := m.binders + 1 }

/-- A READ of this many beats. -/
def readOf (tag : Byte) (addr : BitVec 20) (beats : Nat) : Access :=
  { tag := tag, kind := .read, addr := addr, beats := beats, data := [] }

/-- A WRITE of this many beats, of bytes 0xAB. -/
def writeOf (tag : Byte) (addr : BitVec 20) (beats : Nat) : Access :=
  { tag := tag, kind := .write, addr := addr, beats := beats, data := List.replicate (4 * beats) 0xAB }

/-- A load job of P0, tag 0x21, of 4 pages from page 10 on, into slot `n`. -/
def jobOn (n : SlotId) (st : JobState) : Job :=
  { slot := n, first := 10, count := 4, addr := 0x040000, issuer := { port := 0, tag := 0x21 }, owed := true, state := st }

/-- The pending commit of the MARK example of chapter 5. -/
def markCommit (waiting : List PortId) : PendingCommit :=
  { boundary := .mark waiting, issuer := { port := 0, tag := 0x40 }, owed := true }

/-- A pending commit with boundary DRAIN. -/
def drainCommit : PendingCommit := { boundary := .drain, issuer := { port := 0, tag := 0x31 }, owed := true }

/-- The map of the four-access example of chapter 2: MEMSIZE 2048, S1 with pages 3 to 6, P2 ATTACHED to it. -/
def translating : State :=
  attach 2 1 (lease .opened 70 2) <| mapped 1 3 40 .rw <| mapped 1 4 41 .ro <| mapped 1 5 300 .none <|
    mapped 1 6 2050 .ro { State.reset with memsize := 2048 }

/-! ## WellFormed refuses each ill-formed term -/

theorem test_wf_no_beats : (Instr.accessRequest 0 (readOf 1 0 0) 0).wellFormed = false := by decide
theorem test_wf_too_many_beats : (Instr.accessRequest 0 (readOf 1 0 17) 0).wellFormed = false := by decide
theorem test_wf_read_with_data :
    (Instr.accessRequest 0 { readOf 1 0 1 with data := [0] } 0).wellFormed = false := by decide
theorem test_wf_write_short : (Instr.accessRequest 0 { writeOf 1 0 2 with data := [0] } 0).wellFormed = false := by decide
theorem test_wf_error_with_data :
    (Instr.memoryAnswerAccess { number := 0, generation := 0, outcome := .error, data := [0] } []).wellFormed = false := by
  decide
theorem test_wf_answer_part_of_beat :
    (Instr.memoryAnswerDescriptor { number := 0, generation := 0, outcome := .success, data := [0] } []).wellFormed = false := by
  decide
theorem test_wf_answer_too_long :
    (Instr.memoryAnswerAccess
      { number := 0, generation := 0, outcome := .success, data := List.replicate 68 0 } []).wellFormed = false := by decide
theorem test_wf_tick_twice : (Instr.tick [.stamp, .lease 1, .stamp]).wellFormed = false := by decide
theorem test_wf_port_twice :
    (Instr.memoryAnswerAccess { number := 0, generation := 0, outcome := .error, data := [] } [2, 2]).wellFormed = false ∧
      (Instr.memoryAnswerDescriptor { number := 0, generation := 0, outcome := .error, data := [] } [2, 2]).wellFormed = false ∧
      (Instr.commit 0 [1, 3, 1]).wellFormed = false ∧ (Instr.cancelCommit 0 [1, 3, 1]).wellFormed = false := by decide
theorem test_wf_request : (Instr.accessRequest 0 (writeOf 1 0 16) 0).wellFormed = true := by decide

/-! ## Formats (chapter 11) -/

/-- R188: the words of CONFIGURE(2048, 500), tag 0x01, of section 12.1, and of LOAD(S5, 10, 4, 0x040000), tag 0x21, written out
by the table. -/
theorem test_record_words :
    (CommandRecord.command #v[0x00001101, 0x00000800, 0x000001F4, 0]) = .configure 2048 500 ∧
      (CommandRecord.command #v[0x00000421, 0x00040A05, 0x00040000, 0]) = .load 5 10 4 0x040000 ∧
      (CommandRecord.command #v[0x00000A33, 0x00000102, 0x00000064, 0]) = .setLease 2 1 100 ∧
      (CommandRecord.command #v[0x00000D07, 0x0001001F, 0, 0]) = .resolve 31 1 := by decide

/-- R188: a code that the table does not list. -/
theorem test_record_unknown : (CommandRecord.command #v[0x00001201, 0, 0, 0]) = .unknown := by decide

/-- The table of R191. -/
theorem test_descriptor_words :
    descriptorOf 0x00003384 = .set 900 .rw ∧ descriptorOf 0x00001386 = .set 902 .ro ∧ descriptorOf 0 = .set 0 .none ∧
      descriptorOf 0x00002000 = .keep ∧ descriptorOf 0x00002FFF = .keep ∧ descriptorOf 0x00004384 = .malformed := by decide

/-- R187: the aperture status word of P0 after device reset: DETACHED, SUPERVISOR. -/
theorem test_status_word : State.reset.apertureRead 0 0x20 true = 0x00000400 := by decide +kernel

/-! ## Map store (chapter 1, its example) -/

/-- PUT_ENTRY(S3, 4, 700, RW): staged RW 700, DIRTY, OK; the live image stays. -/
theorem test_putEntry :
    (after (.putEntry 0) (posted 0 (.putEntry 3 4 700 3) State.reset)).map
        (fun t => (t.slots[3].staged[4], t.slots[3].live[4], t.slots[3].condition, t.ports[0].completions)) =
      some (⟨700, .rw⟩, ⟨0, .none⟩, .dirty, [⟨0x21, 0x01, .ok, none⟩]) := by decide +kernel

/-- PUT_ENTRY(S3, 5, 9, RW) while a load job names S3: SLOT_BUSY, page 5 unchanged. -/
theorem test_putEntry_busy :
    (after (.putEntry 0) (posted 0 (.putEntry 3 5 9 3) { State.reset with jobs := [jobOn 3 (.running 0 .requested)] })).map
        (fun t => (t.slots[3].staged[5], t.ports[0].completions.map (·.status))) =
      some (⟨0, .none⟩, [.slotBusy]) := by decide +kernel

/-- DISCARD of a CLEAN slot: NO_EFFECT. -/
theorem test_discard_clean :
    (after (.discard 0) (posted 0 (.discard 3) State.reset)).map (·.ports[0].completions.map (·.status)) =
      some [.noEffect] := by decide +kernel

/-- DISCARD of a DIRTY slot takes the staged image back to the live one. -/
theorem test_discard :
    (after (.discard 0) (posted 0 (.discard 3) (State.reset.modifySlot 3 fun m =>
        { m with staged := m.staged.set 4 ⟨700, .rw⟩, condition := .dirty }))).map
        (fun t => (t.slots[3].staged[4], t.slots[3].condition)) = some (⟨0, .none⟩, .clean) := by decide +kernel

/-- CLEAR(S3) after the swap: staged NONE 0, live RW 812, DIRTY. -/
theorem test_clear :
    (after (.clear 0) (posted 0 (.clear 3) (mapped 3 4 812 .rw State.reset))).map
        (fun t => (t.slots[3].staged[4], t.slots[3].live[4], t.slots[3].condition)) =
      some (⟨0, .none⟩, ⟨812, .rw⟩, .dirty) := by decide +kernel

/-- CHECK_PAGE by a port that is neither the supervisor nor bound to the slot (R16). -/
theorem test_checkPage_denied :
    (after (.checkPage 1) (posted 1 (.checkPage 3 5) State.reset)).map (·.ports[1].completions.map (·.status)) =
      some [.notSupervisor] := by decide +kernel

/-- R189: the completion window of CHECK_PAGE(S3, 5): live NONE 0, staged RO 701, DIRTY. -/
theorem test_checkPage_window :
    (after (.checkPage 0) (posted 0 (.checkPage 3 5) (State.reset.modifySlot 3 fun m =>
        { m with staged := m.staged.set 5 ⟨701, .ro⟩, condition := .dirty }))).map
        (fun t => (t.apertureRead 0 0x30 true, t.apertureRead 0 0x34 true, t.apertureRead 0 0x38 true)) =
      some (0x80102121, 0x12BD0000, 0x00000001) := by decide +kernel

/-- R173: an unknown code completes BAD_ARGUMENT and is echoed. -/
theorem test_unknown :
    (after (.unknownCommand 4) (State.reset.modifyPort 4 fun r => { r with commands := [#v[0xEE07, 0, 0, 0]] })).map
        (·.ports[4].completions) = some [⟨0x07, 0xEE, .badArgument, none⟩] := by decide +kernel

/-! ## Access stream (chapter 2) -/

/-- A request is accepted by a DETACHED port and takes the next arrival position. -/
theorem test_accessRequest :
    (after (.accessRequest 3 (readOf 0x13 0x03100 1) 5) (holding 3 0 (readOf 0x12 0 1) .untranslated State.reset)).map
        (fun t => (t.ports[3].arrival, t.ports[3].slots[5])) =
      some ([0, 5], some ⟨readOf 0x13 0x03100 1, .untranslated⟩) := by decide +kernel

/-- READ 0x03000 is issued at physical 0x028000, and the in-flight count rises. -/
theorem test_translate_issues :
    (after (.translateHeadAccess 2) (holding 2 0 (readOf 0x10 0x03000 4) .untranslated translating)).map
        (fun t => (t.mem.issue[2].map (·.addr), t.slots[1].inFlight)) = some ([0x028000], 1) := by decide +kernel

/-- WRITE 0x06000 fails the rights check before the frame check: WRITE_DENIED with frame 2050. -/
theorem test_translate_stalls :
    (after (.translateHeadAccess 2) (holding 2 0 (writeOf 0x11 0x06000 8) .untranslated translating)).map
        (fun t => (t.faults.map (·.body), t.ports[0].flags)) =
      some ([.access (.writeDenied 2050) 1 6 .write 0x11], 0b000010) := by decide +kernel

/-- Only the oldest response leaves; the stalled example delivers A2's ERR_BOUNDARY after A1. -/
theorem test_deliver :
    (after (.deliverResponse 2) (holding 2 1 (writeOf 0x12 0x04010 2) .untranslated
        (holding 2 0 (writeOf 0x11 0x03FF8 4) (.answered ⟨0x11, .errBoundary, []⟩ none) translating))).map
        (fun t => (t.delivered, t.ports[2].arrival)) = some ([(2, ⟨0x11, .errBoundary, []⟩)], [1]) := by decide +kernel

/-! ## Memory port (chapter 3, its example) -/

/-- An entry of the example's outstanding set: a READ of P0. -/
def entry (n : TxnId) : OutEntry := { number := n, generation := 0, requester := .port 0 0 1, kind := .read, beats := 4 }

/-- The start of the example: numbers 0 to 14 in use, the position at P2, P1 and P4 with issue queues, the load engine reading. -/
def grants : State :=
  { State.reset with
    jobs := [jobOn 5 (.running 0 .requested)]
    mem :=
      { MemPort.reset with
        entries := ((List.finRange 16).filter (· ≠ 15)).map entry
        issue := (MemPort.reset.issue.set 1 [⟨0, 1, .read, 0x1000, 1, []⟩]).set 4 [⟨3, 1, .read, 0x2000, 1, []⟩]
        position := 2 } }

/-- P4 is granted number 15 and the position moves to P5. -/
theorem test_grant_port :
    (after (.grant true) grants).map (fun t => (t.mem.entries.getLast?.map (·.number), t.mem.position, t.sent.map (·.addr))) =
      some (some 15, 5, [0x2000]) := by decide +kernel

/-- From P5, with number 6 free, the load engine is granted number 6 and the position moves to P0. -/
theorem test_grant_load :
    (after (.grant true) { grants with mem :=
        { grants.mem with position := 5, entries := grants.mem.entries.filter (·.number ≠ 6) } }).map
        (fun t => (t.mem.entries.getLast?.map (·.number), t.mem.position, t.sent.map (·.addr))) =
      some (some 6, 0, [0x040000]) := by decide +kernel

/-- Memory answers A1: the slot is ANSWERED OK with the data, and the in-flight count falls. -/
theorem test_answer_access :
    (after (.memoryAnswerAccess ⟨6, 0, .success, [1, 2, 3, 4]⟩ [])
        { holding 2 0 (readOf 0x10 0x03000 1) (.issued 1 false) (translating.modifySlot 1 ({ · with inFlight := 1 })) with
          mem := { MemPort.reset with entries := [⟨6, 0, .port 2 0 1, .read, 1⟩] } }).map
        (fun t => (t.ports[2].slots[0].map (·.state), t.slots[1].inFlight)) =
      some (some (.answered ⟨0x10, .ok, [1, 2, 3, 4]⟩ (some 1)), 0) := by decide +kernel

/-- The DMA engine of section 12.2 before memory's last answer: P3's D3 outstanding through S2, D4 held by the DRAIN seal. -/
def draining : State :=
  { holding 3 1 (writeOf 0x04 0x05080 4) .untranslated <| holding 3 0 (writeOf 0x03 0x05040 4) (.issued 2 false) <|
      attach 3 2 (lease .opened 70 0) <| State.reset.modifySlot 2 fun m =>
        { m with
          live := m.live.set 5 ⟨300, .rw⟩, staged := m.staged.set 5 ⟨400, .rw⟩, inFlight := 1
          condition := .sealed drainCommit } with
    mem := { MemPort.reset with entries := [⟨2, 0, .port 3 0 2, .write, 4⟩] } }

/-- Memory answers D3: S2 swaps, the COMMIT completes, and D4 is issued at 0x190080 in the same happening (section 12.2). -/
theorem test_answer_swaps :
    (after (.memoryAnswerAccess ⟨2, 0, .success, []⟩ []) draining).map
        (fun t => (t.mem.issue[3].map (·.addr), t.slots[2].inFlight, t.slots[2].condition,
          t.ports[0].completions.map (·.result))) =
      some ([0x190080], 1, .clean, [some (.commit true)]) := by decide +kernel

/-- The load of the example of chapter 4 with the read of page `10 + done` outstanding as transaction 6. -/
def loading (done : Nat) : State :=
  { State.reset with
    jobs := [jobOn 5 (.running done (.outstanding false)), { jobOn 5 .queued with first := 20, count := 2 }]
    mem := { MemPort.reset with entries := [⟨6, 0, .loadEngine, .read, 1⟩] } }

/-- Answer RW 900, the word 0x00003384 with its lowest byte first: page 10 is RW 900, S5 DIRTY, 1 page done. -/
theorem test_answer_descriptor :
    (after (.memoryAnswerDescriptor ⟨6, 0, .success, [0x84, 0x33, 0x00, 0x00]⟩ []) (loading 0)).map
        (fun t => (t.slots[5].staged[10], t.slots[5].condition, t.jobs.map (·.state))) =
      some (⟨900, .rw⟩, .dirty, [.running 1 .requested, .queued]) := by decide +kernel

/-- Answer ERROR at page 12: FAILED_MEMORY with 2 pages done, and the next job starts. -/
theorem test_answer_descriptor_error :
    (after (.memoryAnswerDescriptor ⟨6, 0, .error, []⟩ []) (loading 2)).map
        (fun t => (t.ports[0].completions, t.jobs.map (·.state))) =
      some ([⟨0x21, 0x04, .failedMemory, some (.pagesDone 2)⟩], [.running 0 .requested]) := by decide +kernel

/-! ## Loads and commits (chapters 4 and 5) -/

/-- LOAD(S5, 10, 4, 0x040000) on an empty queue: RUNNING, done 0, read REQUESTED; no completion yet. -/
theorem test_load :
    (after (.load 0) (posted 0 (.load 5 10 4 0x040000) State.reset)).map (fun t => (t.jobs, t.ports[0].completions)) =
      some ([jobOn 5 (.running 0 .requested)], []) := by decide +kernel

/-- R188: a LOAD count of 257 is refused. -/
theorem test_load_count :
    (after (.load 0) (posted 0 (.load 5 0 257 0) State.reset)).map (·.ports[0].completions.map (·.status)) =
      some [.badArgument] := by decide +kernel

/-- ABORT_LOAD(S5) with one job left, still REQUESTED: ABORTED with 0 pages done, then the command's OK with 1. -/
theorem test_abortLoad :
    (after (.abortLoad 0) (posted 0 (.abortLoad 5) { State.reset with jobs := [jobOn 5 (.running 0 .requested)] })).map
        (fun t => (t.jobs, t.ports[0].completions.map (fun c => (c.code, c.status, c.result)))) =
      some ([], [(0x04, .aborted, some (.pagesDone 0)), (0x05, .ok, some (.abortedNumber 1))]) := by decide +kernel

/-- With the read OUTSTANDING the job carries the abort mark and only the command completes. -/
theorem test_abortLoad_marks :
    (after (.abortLoad 0) (posted 0 (.abortLoad 5) { State.reset with jobs := [jobOn 5 (.running 0 (.outstanding false))] })).map
        (fun t => (t.jobs.map (·.state), t.ports[0].completions.map (fun c => (c.code, c.result)))) =
      some ([.running 0 (.outstanding true)], [(0x05, some (.abortedNumber 1))]) := by decide +kernel

/-- COMMIT(S3, DRAIN) of a DIRTY slot with in-flight 0 swaps at once (the example of chapter 1). -/
theorem test_commit :
    (after (.commit 0 []) (posted 0 (.commit 3 0) (State.reset.modifySlot 3 fun m =>
        { m with staged := m.staged.set 4 ⟨812, .rw⟩, condition := .dirty }))).map
        (fun t => (t.slots[3].live[4], t.slots[3].condition, t.ports[0].completions.map (·.result))) =
      some (⟨812, .rw⟩, .clean, [some (.commit true)]) := by decide +kernel

/-- COMMIT(S2, MARK), tag 0x21, with P1 and P3 ATTACHED to S2: the waiting set is P1, P3, and nothing completes. -/
theorem test_commit_mark :
    (after (.commit 0 []) (posted 0 (.commit 2 1)
        (conditioned 2 .dirty (attach 1 2 (lease .opened 70 0) (attach 3 2 (lease .opened 70 0) State.reset))))).map
        (fun t => (t.slots[2].condition.waiting, t.ports[0].completions)) = some ([1, 3], []) := by decide +kernel

/-- CANCEL_COMMIT: the slot is DIRTY, the COMMIT's CANCELLED comes before the command's own OK (R91). -/
theorem test_cancelCommit :
    (after (.cancelCommit 0 []) (posted 0 (.cancelCommit 2) (conditioned 2 (.sealed (markCommit [1])) State.reset))).map
        (fun t => (t.slots[2].condition, t.ports[0].completions.map (fun c => (c.tag, c.code, c.status)))) =
      some (.dirty, [(0x40, 0x06, .cancelled), (0x21, 0x07, .ok)]) := by decide +kernel

/-- CANCEL_COMMIT of a DRAIN seal: D4 of section 12.2 is issued at once through the unchanged live page 5, frame 300 (R91). -/
theorem test_cancelCommit_drain :
    (after (.cancelCommit 0 []) (posted 0 (.cancelCommit 2) draining)).map
        (fun t => (t.mem.issue[3].map (·.addr), t.slots[2].inFlight, t.slots[2].condition)) =
      some ([0x12C080], 2, .dirty) := by decide +kernel

/-- SYNC from P3 with P1 still in the set: P3 leaves it and the slot stays SEALED. -/
theorem test_sync :
    (after (.sync 3) (posted 3 .sync
        (conditioned 2 (.sealed (markCommit [1, 3])) (attach 3 2 (lease .opened 70 0) State.reset)))).map
        (fun t => (t.slots[2].condition.waiting, t.ports[3].completions.map (·.status))) = some ([1], [.ok]) := by
  decide +kernel

/-- SYNC from P5, bound after the sealing and no member: NO_EFFECT. -/
theorem test_sync_no_member :
    (after (.sync 5) (posted 5 .sync
        (conditioned 2 (.sealed (markCommit [1])) (attach 5 2 (lease .fresh 1024 0) State.reset)))).map
        (·.ports[5].completions.map (·.status)) = some [.noEffect] := by decide +kernel

/-! ## Bindings, leases and fences (chapters 6 and 7) -/

/-- BIND(P0, S0) from reset: ATTACHED, FRESH with 1024 ticks and expected number 0, one binder (section 12.1). -/
theorem test_bind :
    (after (.bind 0) (posted 0 (.bind 0 0) State.reset)).map (fun t => (t.ports[0].state, t.slots[0].binders)) =
      some (.attached ⟨0, ⟨.fresh, 1024, 0, false⟩⟩, 1) := by decide +kernel

/-- UNBIND(P1) of the last member swaps: COMMIT 0x40 "swapped", then UNBIND OK, both to P0 (the example of chapter 5). -/
theorem test_unbind :
    (after (.unbind 0) (posted 0 (.unbind 1)
        (conditioned 2 (.sealed (markCommit [1])) (attach 1 2 (lease .opened 70 0) State.reset)))).map
        (fun t => (t.ports[1].state, t.slots[2].condition, t.ports[0].completions.map (fun c => (c.tag, c.code)))) =
      some (.detached, .clean, [(0x40, 0x06), (0x21, 0x09)]) := by decide +kernel

/-- SET_LEASE(P2, 1/4, 100): closed ticks 25, warning ticks 75. -/
theorem test_setLease :
    (after (.setLease 0) (posted 0 (.setLease 2 1 100) State.reset)).map
        (fun t => (t.ports[2].params.closedTicks, t.ports[2].params.warningTicks)) = some (25, 75) := by decide +kernel

/-- R188: a period below 64 is refused. -/
theorem test_setLease_short :
    (after (.setLease 0) (posted 0 (.setLease 2 1 63) State.reset)).map (·.ports[0].completions.map (·.status)) =
      some [.badArgument] := by decide +kernel

/-- P2 of the lease example, period 100 and closed fraction 1/4, ATTACHED to S1 under lease `l`. -/
def leased (l : Lease) : State :=
  attach 2 1 l (State.reset.modifyPort 2 ({ · with params := { period := 100, fraction := .quarter } }))

/-- The 25th tick after a renewal opens the lease. -/
theorem test_tick_opens :
    (after (.tick []) (leased (lease .closed 76 1))).map (fun t => (t.ports[2].state.binding?.map (·.lease), t.stampCount)) =
      some (some ⟨.opened, 75, 1, false⟩, 1) := by decide +kernel

/-- The 75th tick warns and sets LEASE_WARN. -/
theorem test_tick_warns :
    (after (.tick [.timer 5, .stamp]) (leased (lease .opened 26 1))).map
        (fun t => (t.ports[2].state.binding?.map (·.lease), t.ports[2].flags)) =
      some (some ⟨.opened, 25, 1, true⟩, 0b000100) := by decide +kernel

/-- The tick to 0 is an EXPIRED violation: FENCED, a LEASE record, FAULT on P0 (the example of chapter 8). -/
theorem test_leaseExpiry :
    (after (.leaseExpiry 2) { leased (lease .opened 1 1) with seqCounter := 41, stampCount := 5030 }).map
        (fun t => (t.ports[2].state, t.faults, t.ports[0].flags, t.ports[2].flags)) =
      some (.fenced, [⟨41, 2, 5030, .lease .expired .kept⟩], 0b000010, 0b001000) := by decide +kernel

/-- Renewal 0 in FRESH: CLOSED, 100 ticks, expected 1. -/
theorem test_renewal :
    (after (.renewal 2 0) (leased (lease .fresh 60 0))).map (·.ports[2].state.binding?.map (·.lease)) =
      some (some ⟨.closed, 100, 1, false⟩) := by decide +kernel

/-- Renewal 3 after 5 of 25 closed ticks: EARLY, and S1 loses its binder. -/
theorem test_renewal_early :
    (after (.renewal 2 3) (leased (lease .closed 95 3))).map
        (fun t => (t.ports[2].state, t.faults.map (·.body), t.slots[1].binders)) =
      some (.fenced, [.lease .early .kept], 0) := by decide +kernel

/-- FENCE adds no record; the bound port loses its binding. -/
theorem test_fence :
    (after (.fence 0) (posted 0 (.fence 2) (leased (lease .opened 70 0)))).map
        (fun t => (t.ports[2].state, t.faults, t.slots[1].binders)) = some (.fenced, [], 0) := by decide +kernel

/-- UNFENCE(P2) retires its LEASE record and makes it DETACHED (the example of chapter 8). -/
theorem test_unfence :
    (after (.unfence 0) (posted 0 (.unfence 2)
        { State.reset.modifyPort 2 ({ · with state := .fenced }) with
          faults := [⟨41, 2, 5030, .lease .expired .kept⟩] })).map
        (fun t => (t.ports[2].state, t.faults)) = some (.detached, []) := by decide +kernel

/-! ## Stalls and faults (chapter 8) -/

/-- P4 STALLED on a WRITE in its slot 3 under record 42, with `timer` left. -/
def stalled (timer : Option Nat) : State :=
  stall 4 3 3 (writeOf 0x31 0x02000 1) 42 timer { State.reset with stallLimit := 200 }

/-- P4's stall timer expires: ERR_UNRESOLVED, the record gone, AUTO_RESOLVED on P0. -/
theorem test_stallTimerExpiry :
    (after (.stallTimerExpiry 4) (stalled (some 1))).map
        (fun t => (t.ports[4].slots[3].map (·.state), t.faults, t.ports[0].flags)) =
      some (some (.answered ⟨0x31, .errUnresolved, []⟩ none), [], 0b100000) := by decide +kernel

/-- The fault of section 12.3: P2 STALLED on the WRITE at 0x04010, tag 0x44, in S1, whose live page 4 is RO 41. -/
def denied : State :=
  stall 2 1 0 (writeOf 0x44 0x04010 2) 7 none { mapped 1 4 41 .ro State.reset with seqCounter := 8 }

/-- RESOLVE(7, RETRY): with no commit the WRITE is translated at once and stalls P2 again with record 8; at the hold of a DRAIN
seal it waits; through the entry mended to RW it is issued at 0x029010. -/
theorem test_resolveRetry :
    let retried := fun s => after (.resolveRetry 0) (posted 0 (.resolve 7 0) s)
    (retried denied).map (fun t => (t.faults.map (fun f => (f.seq, f.body)), t.ports[2].slots[0].map (·.state))) =
        some ([(8, .access (.writeDenied 41) 1 4 .write 0x44)], some .stalled) ∧
      (retried (conditioned 1 (.sealed drainCommit) denied)).map (·.ports[2].slots[0]) =
        some (some ⟨writeOf 0x44 0x04010 2, .untranslated⟩) ∧
      (retried (mapped 1 4 41 .rw denied)).map (·.mem.issue[2].map (·.addr)) = some [0x029010] := by decide +kernel

/-- RESOLVE(40, RETRY) of a record that has retired: STALE. -/
theorem test_resolveRetry_stale :
    (after (.resolveRetry 0) (posted 0 (.resolve 40 0) (stalled none))).map (·.ports[0].completions.map (·.status)) =
      some [.stale] := by decide +kernel

/-- RESOLVE(42, SKIP): ERR_DENIED, and the lease restarts FRESH with the full period and the expected number kept. -/
theorem test_resolveSkip :
    (after (.resolveSkip 0) (posted 0 (.resolve 42 1) (stalled none))).map
        (fun t => (t.ports[4].slots[3].map (·.state), t.ports[4].state, t.ports[0].completions.map (·.result))) =
      some (some (.answered ⟨0x31, .errDenied, []⟩ none), .attached ⟨3, ⟨.fresh, 1024, 2, false⟩⟩,
        [some (.action .skip)]) := by decide +kernel

/-- RESOLVE(42, FENCE): ERR_FENCED, FENCED, and no LEASE record. -/
theorem test_resolveFence :
    (after (.resolveFence 0) (posted 0 (.resolve 42 2) (stalled none))).map
        (fun t => (t.ports[4].slots[3].map (·.state), t.ports[4].state, t.faults)) =
      some (some (.answered ⟨0x31, .errFenced, []⟩ none), .fenced, []) := by decide +kernel

/-- READ_FAULT(1) with one record: OK, NONE. -/
theorem test_readFault :
    (after (.readFault 0) (posted 0 (.readFault 1) (stalled none))).map (·.ports[0].completions.map (·.result)) =
      some [some (.fault none)] := by decide +kernel

/-! ## Supervisor rights (chapter 9, its example) -/

/-- HANDOVER(P4) with P4 the standby: P4 is OFFERED too, and its ROLE flag is set. -/
theorem test_handover :
    (after (.handover 2) (posted 2 (.handover 4)
        { State.reset with rights := { supervisor := some (2, .claim), standby := some 4, offer := none } })).map
        (fun t => (t.rights.offer, t.rights.role 4, t.ports[4].flags, t.ports[2].completions.map (·.status))) =
      some (some 4, .standbyOffered, 0b010000, [.ok]) := by decide +kernel

/-- ACCEPT from P4: supervisor by HANDOVER, no standby, ROLE on P2 and P4. -/
theorem test_accept :
    (after (.accept 4) (posted 4 .accept
        { State.reset with rights := { supervisor := some (2, .claim), standby := some 4, offer := some 4 } })).map
        (fun t => (t.rights, t.ports[2].flags, t.ports[4].flags)) =
      some ({ supervisor := some (4, .handover), standby := none, offer := none }, 0b010000, 0b010001) := by decide +kernel

/-- CLAIM from the ATTACHED P2 in a vacancy, P4 keeping its designation. -/
theorem test_claim :
    (after (.claim 2) (posted 2 .claim
        { leased (lease .opened 70 0) with rights := { supervisor := none, standby := some 4, offer := none } })).map
        (·.rights) = some { supervisor := some (2, .claim), standby := some 4, offer := none } := by decide +kernel

/-- CLAIM from P1 while a claimer holds rights: STALE. -/
theorem test_claim_stale :
    (after (.claim 1) (posted 1 .claim
        { State.reset with rights := { supervisor := some (2, .claim), standby := some 4, offer := none } })).map
        (·.ports[1].completions.map (·.status)) = some [.stale] := by decide +kernel

/-- SET_STANDBY(P1) sets P1's ROLE flag; 0xFF would name none (R188). -/
theorem test_setStandby :
    (after (.setStandby 0) (posted 0 (.setStandby 1) State.reset)).map
        (fun t => (t.rights.standby, t.ports[1].flags)) = some (some 1, 0b010000) := by decide +kernel

/-- CONFIGURE(2048, 500) (section 12.1). -/
theorem test_configure :
    (after (.configure 0) (posted 0 (.configure 2048 500) State.reset)).map (fun t => (t.memsize, t.stallLimit)) =
      some (2048, 500) := by decide +kernel

/-- R188: a stall limit of 15 is refused. -/
theorem test_configure_range :
    (after (.configure 0) (posted 0 (.configure 2048 15) State.reset)).map (·.ports[0].completions.map (·.status)) =
      some [.badArgument] := by decide +kernel

/-! ## The aperture (chapter 10, its example) -/

/-- The post after four outstanding records is lost and sets POST_REFUSED. -/
theorem test_post_refused :
    (after (.post 0 0) (State.reset.modifyPort 0 ({ · with outstanding := 4 }))).map
        (fun t => (t.ports[0].commands.length, t.ports[0].outstanding, t.ports[0].postRefused)) =
      some (0, 4, true) := by decide +kernel

/-- A post takes the staging words as they stand. -/
theorem test_post :
    (after (.post 0 0) (State.reset.modifyPort 0 ({ · with staging := #v[0x00002005, 1, 2, 3] }))).map
        (fun t => (t.ports[0].commands, t.ports[0].outstanding)) = some ([#v[0x00002005, 1, 2, 3]], 1) := by decide +kernel

/-- One pop: the oldest completion leaves and the count falls from 4 to 3. -/
theorem test_pop :
    (after (.pop 0 7) (State.reset.modifyPort 0 fun r =>
        { r with completions := [⟨2, 0x21, .ok, none⟩, ⟨3, 0x06, .slotBusy, none⟩], outstanding := 4 })).map
        (fun t => (t.ports[0].completions.map (·.tag), t.ports[0].outstanding)) = some ([3], 3) := by decide +kernel

/-- A 1 written to COMPLETION clears it, and the line is inactive. -/
theorem test_flagWordWrite :
    (after (.flagWordWrite 0 1) (State.reset.modifyPort 0 fun r => { r with flags := 0b010001, enables := 1 })).map
        (fun t => (t.ports[0].flags, t.interruptLine 0)) = some (0b010000, false) := by decide +kernel

/-- All six enables are set as written; a flag already 1 makes the line active. -/
theorem test_enableWordWrite :
    (after (.enableWordWrite 0 0xFFFFFFD0) (State.reset.modifyPort 0 fun r => { r with flags := 0b010000, enables := 1 })).map
        (fun t => (t.ports[0].enables, t.interruptLine 0)) = some (0b010000, true) := by decide +kernel

/-- A 1 in bit 16 clears POST_REFUSED and leaves RENEW_IGNORED. -/
theorem test_apertureStatusWrite :
    (after (.apertureStatusWrite 0 0x00010000) (State.reset.modifyPort 0 fun r =>
        { r with postRefused := true, renewIgnored := true })).map
        (fun t => (t.ports[0].postRefused, t.ports[0].renewIgnored)) = some (false, true) := by decide +kernel

/-- The aperture repeats every 64 bytes: 0x1044 is staging word 1. -/
theorem test_apertureWrite :
    (after (.apertureWrite 0 0x1044 true 0xFFFFFFFF) State.reset).map (·.ports[0].staging) =
      some #v[0, 0xFFFFFFFF, 0, 0] := by decide +kernel

/-- A write narrower than a word changes nothing. -/
theorem test_apertureWrite_narrow :
    (after (.apertureWrite 0 0x44 false 0xFF) State.reset).map (·.ports[0].staging) = some #v[0, 0, 0, 0] := by decide +kernel

/-! ## Resets -/

/-- Port reset of P3 (the example of chapter 6): B1 marked for discard, the others gone, P3 out of the waiting set, no standby. -/
theorem test_portReset :
    (after (.portReset 3) (holding 3 3 (readOf 4 0 1) .untranslated (holding 3 2 (readOf 1 0 1) (.issued 4 false)
        (conditioned 4 (.sealed (markCommit [1, 3])) (attach 3 4 (lease .opened 70 0)
          { State.reset with rights := { supervisor := some (0, .reset), standby := some 3, offer := none } }))))).map
        (fun t => (t.ports[3].state, t.ports[3].slots[2].map (·.state), t.slots[4].condition.waiting, t.rights.standby)) =
      some (.detached, some (.issued 4 true), [1], none) := by decide +kernel

/-- R163: port reset of the supervisor with its standby STALLED leaves no supervisor and keeps the designation (the example of chapter 9). -/
theorem test_portReset_vacancy :
    (after (.portReset 0) { stalled none with
        rights := { supervisor := some (0, .reset), standby := some 4, offer := none } }).map
        (fun t => (t.rights, t.ports[0].flags)) =
      some ({ supervisor := none, standby := some 4, offer := none }, 0) := by decide +kernel

/-- R59: device reset advances the reset generation and empties the outstanding set. -/
theorem test_deviceReset :
    (after .deviceReset { grants with mem := { grants.mem with generation := 255 } }).map
        (fun t => (t.mem.generation, t.mem.entries, t.jobs)) = some (0, [], []) := by decide +kernel

/-- R46: power-up sets the reset generation to 0. -/
theorem test_powerUp :
    (after .powerUp { grants with mem := { grants.mem with generation := 9 }, memsize := 5 }).map
        (fun t => (t.mem.generation, t.memsize)) = some (0, 4096) := by decide +kernel

/-- The host asks for table words; no row has bits, so none spells a command. -/
theorem test_decodeTableWord : decodeTableWord 32 0 = none := by decide

/-! ## Witnesses: states that meet the hypotheses of the statements -/

theorem not_sealedAt {s : State} {n : SlotId} (h : (s.slots[n]).condition.isSealed = false) : ¬ s.SealedAt n := fun x => by
  rw [(isSealed_iff s n).2 x] at h
  cases h

theorem not_loadHeldAt {s : State} {n : SlotId} (h : s.loadHeld n = false) : ¬ s.LoadHeldAt n := fun x => by
  rw [(loadHeld_iff s n).2 x] at h
  cases h

theorem not_drainHeld {s : State} {n : SlotId} (h : (s.slot n).condition.holdsTranslation = false) : ¬ s.DrainHeld n :=
  fun x => by
    rw [(holdsTranslation_iff s n).2 x] at h
    cases h

theorem not_ready {s : State} (h : ∀ q, s.ready q = false) (q : Fin 7) : ¬ s.Ready q := fun x => by
  have := (ready_iff s q).2 x
  rw [h q] at this
  cases this

/-- A hub in use: P1 and P3 wait in S2's MARK set, P2 has an access at memory through S1, P4 is STALLED in S2 under record 31 with
a timer, P5 is FENCED with record 30, P0 has a load job reading into S5 and a commit pending on S2, and a write to P0's post word is
to come. -/
def busy : State :=
  let s := stall 4 2 0 (writeOf 0x11 0x09000 1) 31 (some 170) <| attach 1 2 (lease .opened 70 0) <|
    attach 3 2 (lease .closed 1000 1) <| holding 2 0 (readOf 0x10 0x03000 4) (.issued 1 false) <|
    attach 2 1 (lease .fresh 1024 0) <| mapped 1 3 40 .rw <|
    { State.reset with faults := [⟨30, 5, 9, .lease .early .kept⟩], stallLimit := 200 }
  let t := conditioned 2 (.sealed (markCommit [1, 3])) <| (s.modifySlot 1 ({ · with inFlight := 1 })).modifyPort 5
    ({ · with state := .fenced })
  { t.modifyPort 0 ({ · with outstanding := 2 }) with
    jobs := [jobOn 5 (.running 1 (.outstanding false)), jobOn 5 .queued |> ({ · with owed := false })]
    seqCounter := 32
    pending := [.post 0 0]
    mem := { MemPort.reset with entries := [⟨0, 0, .port 2 0 1, .read, 4⟩, ⟨1, 0, .loadEngine, .read, 1⟩], position := 0 } }

theorem busy_binderCounts : busy.BinderCounts := by unfold State.BinderCounts; decide +kernel
theorem busy_inFlightCounts : busy.InFlightCounts := by unfold State.InFlightCounts; decide +kernel
theorem busy_cleanAreEqual : busy.CleanAreEqual := by
  intro n _
  fin_cases n <;> rfl
theorem busy_sealedNotLoadHeld : busy.SealedNotLoadHeld := by unfold State.SealedNotLoadHeld; decide +kernel
theorem busy_waitersBound : busy.WaitersBound := by unfold State.WaitersBound; decide +kernel
theorem busy_noSwapDue : busy.NoSwapDue := by
  have h : ∀ n : SlotId, n ≠ 2 → (busy.slot n).condition = .clean := by decide +kernel
  intro n c hc
  by_cases e : n = 2
  · subst e
    have : (busy.slot 2).condition = .sealed (markCommit [1, 3]) := by decide +kernel
    rw [this] at hc
    cases hc
    decide
  · rw [h n e] at hc
    cases hc
theorem busy_leasesSound : busy.LeasesSound := by
  have h : ∀ p : PortId, Config.minPeriod ≤ (busy.port p).params.period ∧ (busy.port p).params.period ≤ Config.maxPeriod := by
    decide +kernel
  refine fun p => ⟨(h p).1, (h p).2, ?_⟩
  fin_cases p
  · exact trivial
  · exact (by decide +kernel : Phase.opened ≠ .frozen ∧ 1 ≤ 70 ∧ 70 ≤ (busy.port 1).params.period)
  · exact (by decide +kernel : Phase.fresh ≠ .frozen ∧ 1 ≤ 1024 ∧ 1024 ≤ (busy.port 2).params.period)
  · exact (by decide +kernel : Phase.closed ≠ .frozen ∧ 1 ≤ 1000 ∧ 1000 ≤ (busy.port 3).params.period)
  · exact (by decide +kernel : Phase.frozen = .frozen ∧ 1 ≤ 70 ∧ 70 ≤ (busy.port 4).params.period)
  · exact trivial
theorem busy_timersSound : busy.TimersSound := by
  intro p
  fin_cases p
  · exact trivial
  · exact trivial
  · exact trivial
  · exact trivial
  · exact (by decide +kernel : 1 ≤ 170 ∧ 170 ≤ busy.stallLimit)
  · exact trivial
theorem busy_loadQueueSound : busy.LoadQueueSound := by
  refine ⟨by decide +kernel, ?_, by decide, ?_⟩
  · intro j hj
    rcases List.mem_cons.1 hj with rfl | hj
    · exact (by decide : 1 ≤ 4 ∧ 10 + 4 ≤ 256 ∧ 1 < 4)
    · rw [List.mem_singleton.1 hj]
      exact (by decide : 1 ≤ 4 ∧ 10 + 4 ≤ 256 ∧ True)
  · intro k hk
    rw [List.mem_singleton.1 hk]
    decide
theorem busy_stallsSound : busy.StallsSound := by
  have h : ∀ (p : PortId) (k : AccId), (busy.port p).slots[k].any (·.state = .stalled) = decide (p = 4 ∧ k = 0) := by
    decide +kernel
  intro p k
  rw [h p k, decide_eq_true_iff]
  fin_cases p
  · exact (by simp : (0 : PortId) = 4 ∧ k = 0 ↔ False)
  · exact (by simp : (1 : PortId) = 4 ∧ k = 0 ↔ False)
  · exact (by simp : (2 : PortId) = 4 ∧ k = 0 ↔ False)
  · exact (by simp : (3 : PortId) = 4 ∧ k = 0 ↔ False)
  · exact (by simp [eq_comm] : (4 : PortId) = 4 ∧ k = 0 ↔ 0 = k)
  · exact (by simp : (5 : PortId) = 4 ∧ k = 0 ↔ False)
theorem busy_issuedSound : busy.IssuedSound := by
  have h : ∀ (p : PortId) (k : AccId), busy.transactionsOf p k = if p = 2 ∧ k = 0 then [1] else [] := by decide +kernel
  have g : ∀ (p : PortId) (k : AccId),
      (busy.port p).slots[k] =
        if p = 2 ∧ k = 0 then some ⟨readOf 0x10 0x03000 4, .issued 1 false⟩
        else if p = 4 ∧ k = 0 then some ⟨writeOf 0x11 0x09000 1, .stalled⟩ else none := by decide +kernel
  intro p k
  rw [h p k, g p k]
  by_cases c : p = 2 ∧ k = 0
  · rw [if_pos c, if_pos c]
    rfl
  · rw [if_neg c, if_neg c]
    by_cases d : p = 4 ∧ k = 0
    · rw [if_pos d]
      rfl
    · rw [if_neg d]
      rfl
theorem busy_configurationSound : busy.ConfigurationSound := by unfold State.ConfigurationSound; decide +kernel
theorem busy_rolesSound : busy.RolesSound := by unfold State.RolesSound; decide +kernel
theorem busy_outstandingCounts : busy.OutstandingCounts := by unfold State.OutstandingCounts; decide +kernel
theorem busy_faultQueueSound : busy.FaultQueueSound := by
  unfold State.FaultQueueSound State.RecordsOf
  decide +kernel
theorem busy_outstandingSetSound : busy.OutstandingSetSound := by unfold State.OutstandingSetSound; decide +kernel
theorem busy_loadReadSound : busy.LoadReadSound := by unfold State.LoadReadSound; decide +kernel
theorem busy_arrivalsSound : busy.ArrivalsSound := by unfold State.ArrivalsSound PortRec.ArrivalSound; decide +kernel

/-- The premise of the statements about every step: the command to come runs. -/
theorem busy_steps : ∃ t, step busy = .next t := ⟨_, rfl⟩
theorem witness_BinderCountsKept : busy.BinderCounts ∧ ∃ t, step busy = .next t :=
  ⟨busy_binderCounts, busy_steps⟩
theorem witness_InFlightCountsKept : busy.InFlightCounts ∧ ∃ t, step busy = .next t :=
  ⟨busy_inFlightCounts, busy_steps⟩
theorem witness_OutstandingCountsKept :
    (busy.OutstandingCounts ∧ busy.SealedNotLoadHeld) ∧ ∃ t, step busy = .next t :=
  ⟨⟨busy_outstandingCounts, busy_sealedNotLoadHeld⟩, busy_steps⟩
theorem witness_FaultQueueKept : busy.FaultQueueSound ∧ ∃ t, step busy = .next t :=
  ⟨busy_faultQueueSound, busy_steps⟩
theorem witness_CommitControlKept :
    (busy.CleanAreEqual ∧ busy.SealedNotLoadHeld ∧ busy.WaitersBound ∧ busy.NoSwapDue) ∧
      ∃ t, step busy = .next t :=
  ⟨⟨busy_cleanAreEqual, busy_sealedNotLoadHeld, busy_waitersBound, busy_noSwapDue⟩, busy_steps⟩
theorem witness_RolesKept : busy.RolesSound ∧ ∃ t, step busy = .next t := ⟨busy_rolesSound, busy_steps⟩
theorem witness_LeasesAndTimersKept :
    (busy.LeasesSound ∧ busy.ConfigurationSound ∧ busy.TimersSound) ∧ ∃ t, step busy = .next t :=
  ⟨⟨busy_leasesSound, busy_configurationSound, busy_timersSound⟩, busy_steps⟩
theorem witness_MemoryPortKept :
    (busy.OutstandingSetSound ∧ busy.LoadQueueSound ∧ busy.LoadReadSound) ∧ ∃ t, step busy = .next t :=
  ⟨⟨busy_outstandingSetSound, busy_loadQueueSound, busy_loadReadSound⟩, busy_steps⟩
theorem witness_AccessSlotsKept :
    (busy.ArrivalsSound ∧ busy.StallsSound ∧ busy.IssuedSound) ∧ ∃ t, step busy = .next t :=
  ⟨⟨busy_arrivalsSound, busy_stallsSound, busy_issuedSound⟩, busy_steps⟩
/-- A member of a waiting set with another and alone, a STALLED port that has left it, and a FENCED port; the premises of
`Obligations.PortResetActs` on the port and the set are the same. -/
theorem witness_EntryIntoFenced :
    busy.ports[(1 : PortId)].state.boundSlot? = some 2 ∧ busy.slots[(2 : SlotId)].condition = .sealed (markCommit [1, 3]) ∧
      (1 : PortId) ∈ ([1, 3] : List PortId) ∧ (∃ q ∈ ([1, 3] : List PortId), q ≠ 1) ∧
      (conditioned 2 (.sealed (markCommit [1])) busy).ports[(1 : PortId)].state.boundSlot? = some 2 ∧
      (conditioned 2 (.sealed (markCommit [1])) busy).slots[(2 : SlotId)].condition = .sealed (markCommit [1]) ∧
      (∀ q ∈ ([1] : List PortId), q = 1) ∧
      busy.ports[(4 : PortId)].state.boundSlot? = some 2 ∧ (4 : PortId) ∉ busy.slots[(2 : SlotId)].condition.waiting ∧
      busy.ports[(5 : PortId)].state.boundSlot? ≠ some 2 := by decide +kernel

theorem witness_StepRunsFrontCommand : State.reset.pending = [] := rfl

/-- DISCARD(S3), tag 0x21, with every reserved bit 0, and with every reserved bit 1. -/
theorem witness_CommandRecordRoundTrip :
    let r : CommandRecord := #v[0x00000221, 3, 0, 0]
    let v : CommandRecord := #v[0xFFFF0221, 0xFFFFFF03, 0xFFFFFFFF, 0xFFFFFFFF]
    v[0].extractLsb' 0 16 = r[0].extractLsb' 0 16 ∧ v[1] &&& (usedBits r.code).1 = r[1] &&& (usedBits r.code).1 ∧
      v[2] &&& (usedBits r.code).2 = r[2] &&& (usedBits r.code).2 ∧ v.command = .discard 3 := by decide

/-- P3 with all eight slots occupied by UNTRANSLATED accesses. -/
def full : State :=
  State.reset.modifyPort 3 fun r =>
    { r with
      slots := Vector.ofFn fun _ => some { access := readOf 1 0 1, state := .untranslated }
      arrival := List.finRange 8 }

theorem witness_RequestAcceptedOrHeldOff_free :
    busy.ports[(2 : PortId)].requests = [] ∧ busy.ports[(2 : PortId)].slots[(7 : AccId)] = none := by decide +kernel
theorem witness_RequestAcceptedOrHeldOff_taken :
    busy.ports[(2 : PortId)].slots[(0 : AccId)] ≠ none ∧ busy.ports[(2 : PortId)].slots[(1 : AccId)] = none ∧
      ∀ j < (1 : AccId), busy.ports[(2 : PortId)].slots[j] ≠ none := by decide +kernel
theorem witness_RequestAcceptedOrHeldOff_full : ∀ j : AccId, full.ports[(3 : PortId)].slots[j] ≠ none := by decide +kernel

theorem witness_TranslationAnswersErrors_fenced :
    let s := holding 5 7 (readOf 1 0 1) .untranslated busy
    s.ports[(5 : PortId)].head? = some (7, readOf 1 0 1) ∧ s.ports[(5 : PortId)].state = .fenced := by decide +kernel
theorem witness_TranslationAnswersErrors_detached :
    let s := holding 0 0 (readOf 1 0 1) .untranslated busy
    s.ports[(0 : PortId)].head? = some (0, readOf 1 0 1) ∧ s.ports[(0 : PortId)].state = .detached := by decide +kernel
/-- The shortest reach over the page's end, and an address off by 2. -/
theorem witness_TranslationAnswersErrors_shape :
    let s := holding 2 0 (writeOf 1 0x03FF8 3) .untranslated translating
    let t := holding 2 0 (readOf 1 0x04002 1) .untranslated translating
    s.ports[(2 : PortId)].head? = some (0, writeOf 1 0x03FF8 3) ∧
      s.ports[(2 : PortId)].state = .attached ⟨1, lease .opened 70 2⟩ ∧ ¬ s.DrainHeld 1 ∧ ¬ InShape (writeOf 1 0x03FF8 3) ∧
      t.ports[(2 : PortId)].head? = some (0, readOf 1 0x04002 1) ∧
      t.ports[(2 : PortId)].state = .attached ⟨1, lease .opened 70 2⟩ ∧ ¬ t.DrainHeld 1 ∧ ¬ InShape (readOf 1 0x04002 1) :=
  ⟨by decide +kernel, by decide +kernel, not_drainHeld (by decide +kernel), by unfold InShape; decide, by decide +kernel,
    by decide +kernel, not_drainHeld (by decide +kernel), by unfold InShape; decide⟩

/-- An access that ends with its page, through the last frame below MEMSIZE. -/
theorem witness_TranslationIssues :
    let s := holding 2 0 (writeOf 1 0x07FF8 2) .untranslated (mapped 1 7 2047 .rw translating)
    s.ports[(2 : PortId)].head? = some (0, writeOf 1 0x07FF8 2) ∧
      s.ports[(2 : PortId)].state = .attached ⟨1, lease .opened 70 2⟩ ∧ ¬ s.DrainHeld 1 ∧ InShape (writeOf 1 0x07FF8 2) ∧
      (7 : Page).val = (writeOf 1 0x07FF8 2).addr.toNat / 4096 ∧
      (s.slots[(1 : SlotId)].live[(7 : Page)]).rights.Grants .write ∧
      (s.slots[(1 : SlotId)].live[(7 : Page)]).frame.toNat < s.memsize :=
  ⟨by decide +kernel, by decide +kernel, not_drainHeld (by decide +kernel), by unfold InShape; decide, by decide,
    .inl (by decide +kernel), by decide +kernel⟩
theorem witness_TranslationIssues_ro : (translating.slots[(1 : SlotId)].live[(4 : Page)]).rights.Grants .read :=
  .inr ⟨by decide +kernel, rfl⟩

theorem witness_TranslationStalls_noEntry :
    let s := holding 2 0 (readOf 1 0x05000 1) .untranslated translating
    s.ports[(2 : PortId)].head? = some (0, readOf 1 0x05000 1) ∧
      s.ports[(2 : PortId)].state = .attached ⟨1, lease .opened 70 2⟩ ∧ ¬ s.DrainHeld 1 ∧ InShape (readOf 1 0x05000 1) ∧
      (5 : Page).val = (readOf 1 0x05000 1).addr.toNat / 4096 ∧ (s.slots[(1 : SlotId)].live[(5 : Page)]).rights = .none :=
  ⟨by decide +kernel, by decide +kernel, not_drainHeld (by decide +kernel), by unfold InShape; decide, by decide,
    by decide +kernel⟩
theorem witness_TranslationStalls_writeDenied :
    let s := holding 2 0 (writeOf 1 0x06000 8) .untranslated translating
    s.ports[(2 : PortId)].head? = some (0, writeOf 1 0x06000 8) ∧
      s.ports[(2 : PortId)].state = .attached ⟨1, lease .opened 70 2⟩ ∧ ¬ s.DrainHeld 1 ∧ InShape (writeOf 1 0x06000 8) ∧
      (6 : Page).val = (writeOf 1 0x06000 8).addr.toNat / 4096 ∧ (s.slots[(1 : SlotId)].live[(6 : Page)]).rights = .ro :=
  ⟨by decide +kernel, by decide +kernel, not_drainHeld (by decide +kernel), by unfold InShape; decide, by decide,
    by decide +kernel⟩
/-- The first frame not below MEMSIZE. -/
theorem witness_TranslationStalls_frameRange :
    let s := holding 2 0 (writeOf 1 0x07000 1) .untranslated (mapped 1 7 2048 .rw translating)
    s.ports[(2 : PortId)].head? = some (0, writeOf 1 0x07000 1) ∧
      s.ports[(2 : PortId)].state = .attached ⟨1, lease .opened 70 2⟩ ∧ ¬ s.DrainHeld 1 ∧ InShape (writeOf 1 0x07000 1) ∧
      (7 : Page).val = (writeOf 1 0x07000 1).addr.toNat / 4096 ∧
      (s.slots[(1 : SlotId)].live[(7 : Page)]).rights.Grants .write ∧
      s.memsize ≤ (s.slots[(1 : SlotId)].live[(7 : Page)]).frame.toNat :=
  ⟨by decide +kernel, by decide +kernel, not_drainHeld (by decide +kernel), by unfold InShape; decide, by decide,
    .inl (by decide +kernel), by decide +kernel⟩

theorem witness_HeadAccessAndItsWaits :
    busy.ports[(0 : PortId)].head? = none ∧ (∃ b st, busy.ports[(4 : PortId)].state = .stalled b st) ∧
      ∃ b, (conditioned 1 (.sealed drainCommit) translating).ports[(2 : PortId)].state = .attached b ∧
        (conditioned 1 (.sealed drainCommit) translating).DrainHeld b.slot :=
  ⟨by decide +kernel, ⟨_, _, rfl⟩, ⟨1, lease .opened 70 2⟩, by decide +kernel, drainCommit, by decide +kernel, rfl⟩

theorem witness_ResponsesLeaveInOrder :
    let s := holding 2 7 (writeOf 0x11 0x03FF8 4) (.answered ⟨0x11, .errBoundary, []⟩ none) translating
    s.ports[(2 : PortId)].arrival = [7] ∧
      s.ports[(2 : PortId)].slots[(7 : AccId)] =
        some ⟨writeOf 0x11 0x03FF8 4, .answered ⟨0x11, .errBoundary, []⟩ none⟩ ∧ s.ports[(2 : PortId)].requests = [] := by
  decide +kernel
/-- P3 with every slot occupied, the oldest ANSWERED, and one request held off. -/
def waitingRequest : State :=
  full.modifyPort 3 fun r =>
    { r with
      slots := r.slots.set 0 (some { access := readOf 1 0 1, state := .answered ⟨1, .errNomap, []⟩ none })
      requests := [{ access := readOf 9 0 1, pick := 4 }] }
theorem witness_ResponsesLeaveInOrder_held :
    waitingRequest.ports[(3 : PortId)].arrival = 0 :: [1, 2, 3, 4, 5, 6, 7] ∧
      waitingRequest.ports[(3 : PortId)].slots[(0 : AccId)] = some ⟨readOf 1 0 1, .answered ⟨1, .errNomap, []⟩ none⟩ ∧
      waitingRequest.ports[(3 : PortId)].requests = [{ access := readOf 9 0 1, pick := 4 }] ∧
      ∀ j : AccId, waitingRequest.ports[(3 : PortId)].slots[j] ≠ none := by decide +kernel
theorem witness_ResponsesLeaveInOrder_none (k : AccId) (rest : List AccId) (a : Access) (response : Response)
    (through : Option SlotId) (_h : full.ports[(3 : PortId)].arrival = k :: rest) :
    full.ports[(3 : PortId)].slots[k] ≠ some { access := a, state := .answered response through } := by
  have e : ∀ j : AccId, full.ports[(3 : PortId)].slots[j] = some { access := readOf 1 0 1, state := .untranslated } := by
    decide +kernel
  rw [e k]
  simp

/-! ### The memory port -/

theorem witness_GrantToPort :
    grants.GrantDue 4 15 ∧ (4 : PortId).val = (4 : Fin 7).val ∧ grants.mem.issue[(4 : PortId)] = [⟨3, 1, .read, 0x2000, 1, []⟩] := by
  refine ⟨⟨by decide +kernel, (ready_iff _ _).1 (by decide +kernel), ?_, by decide +kernel, by decide +kernel⟩, rfl,
    by decide +kernel⟩
  have h : ∀ o : Fin 7, (o - grants.mem.position).val < ((4 : Fin 7) - grants.mem.position).val → grants.ready o = false := by
    decide +kernel
  intro o ho hr
  rw [← ready_iff, h o ho] at hr
  cases hr

/-- The state of the example's second grant. -/
def grantsLoad : State :=
  { grants with mem := { grants.mem with position := 5, entries := grants.mem.entries.filter (·.number ≠ 6) } }
theorem witness_GrantToLoadEngine :
    grantsLoad.GrantDue 6 6 ∧ grantsLoad.jobs = [jobOn 5 (.running 0 .requested)] ∧
      (jobOn 5 (.running 0 .requested)).state = .running 0 .requested := by
  refine ⟨⟨by decide +kernel, (ready_iff _ _).1 (by decide +kernel), ?_, by decide +kernel, by decide +kernel⟩, rfl, rfl⟩
  have h : ∀ o : Fin 7, (o - grantsLoad.mem.position).val < ((6 : Fin 7) - grantsLoad.mem.position).val →
      grantsLoad.ready o = false := by decide +kernel
  intro o ho hr
  rw [← ready_iff, h o ho] at hr
  cases hr

theorem witness_NoGrantMade :
    16 ≤ ((List.finRange 16).map entry).length ∧ ∀ q, ¬ State.reset.Ready q :=
  ⟨by decide, not_ready (by decide +kernel)⟩

/-- A hub with the access of P2's slot 7 at memory as transaction 15, `mark`ed for discard or not. -/
def atMemory (mark : Bool) : State :=
  { holding 2 7 (readOf 0x10 0x03000 1) (.issued 1 mark) (translating.modifySlot 1 ({ · with inFlight := 1 })) with
    mem := { MemPort.reset with entries := [entry 3, ⟨15, 0, .port 2 7 1, .read, 1⟩] } }
theorem witness_AnswerReachesAccess (mark : Bool) :
    (atMemory mark).Answers ⟨15, 0, .success, [1, 2, 3, 4]⟩ [entry 3] ⟨15, 0, .port 2 7 1, .read, 1⟩ [] ∧
      (atMemory mark).ports[(2 : PortId)].slots[(7 : AccId)] = some ⟨readOf 0x10 0x03000 1, .issued 1 mark⟩ ∧
      (atMemory mark).ports[(2 : PortId)].requests = [] := by
  cases mark <;> exact ⟨⟨rfl, rfl, rfl, by decide⟩, by decide +kernel, by decide +kernel⟩
/-- The same with the other slots occupied and a request held off. -/
def atMemoryHeld : State :=
  (atMemory true).modifyPort 2 fun r =>
    { r with
      slots := Vector.ofFn fun k => if k = 7 then r.slots[k] else some { access := readOf 1 0 1, state := .untranslated }
      requests := [{ access := readOf 9 0 1, pick := 0 }] }
theorem witness_AnswerReachesAccess_held :
    atMemoryHeld.Answers ⟨15, 0, .error, []⟩ [entry 3] ⟨15, 0, .port 2 7 1, .read, 1⟩ [] ∧
      atMemoryHeld.ports[(2 : PortId)].slots[(7 : AccId)] = some ⟨readOf 0x10 0x03000 1, .issued 1 true⟩ ∧
      atMemoryHeld.ports[(2 : PortId)].requests = [{ access := readOf 9 0 1, pick := 0 }] ∧
      ∀ j : AccId, atMemoryHeld.ports[(2 : PortId)].slots[j] ≠ none :=
  ⟨⟨rfl, rfl, rfl, by decide⟩, by decide +kernel, by decide +kernel, by decide +kernel⟩

theorem loading_answers (done : Nat) (outcome : MemOutcome) (data : List Byte) :
    (loading done).Answers ⟨6, 0, outcome, data⟩ [] ⟨6, 0, .loadEngine, .read, 1⟩ [] :=
  ⟨rfl, rfl, rfl, fun _ h => absurd h (List.not_mem_nil)⟩
theorem loading_runs (done : Nat) :
    (loading done).Runs (jobOn 5 (.running done (.outstanding false))) [{ jobOn 5 .queued with first := 20, count := 2 }] :=
  ⟨rfl, by decide⟩
/-- Pages 10 (0 done) and 13 (3 done, the last) of the 4-page load, with a word that sets and one that keeps. -/
theorem witness_DescriptorApplied :
    ([0x84, 0x33, 0x00, 0x00] : List Byte) =
        [(0x3384 : Word).extractLsb' 0 8, (0x3384 : Word).extractLsb' 8 8, (0x3384 : Word).extractLsb' 16 8,
          (0x3384 : Word).extractLsb' 24 8] ∧
      (0x3384 : Word).extractLsb' 14 18 = 0 ∧ (0x3384 : Word).extractLsb' 12 2 = 3 ∧
      (0x2FFF : Word).extractLsb' 14 18 = 0 ∧ (0x2FFF : Word).extractLsb' 12 2 = 2 ∧
      (10 : Page).val = (jobOn 5 .queued).first.val + 0 ∧ 0 + 1 < (jobOn 5 .queued).count ∧
      (13 : Page).val = (jobOn 5 .queued).first.val + 3 ∧ 3 + 1 = (jobOn 5 .queued).count := by decide
/-- Bit 14 alone is malformed; the mark and the ERROR need no data. -/
theorem witness_DescriptorEndsJob :
    (0x4000 : Word).extractLsb' 14 18 ≠ 0 ∧
      ([0, 0x40, 0, 0] : List Byte) =
        [(0x4000 : Word).extractLsb' 0 8, (0x4000 : Word).extractLsb' 8 8, (0x4000 : Word).extractLsb' 16 8,
          (0x4000 : Word).extractLsb' 24 8] ∧
      (jobOn 5 (.running 1 (.outstanding true))).state = .running 1 (.outstanding true) ∧
      (jobOn 5 (.running 1 (.outstanding false))).state = .running 1 (.outstanding false) := by decide
theorem witness_OtherAnswersIgnored :
    (255 : BitVec 8) ≠ (loading 0).mem.generation ∧ (∀ e ∈ (loading 0).mem.entries, e.number ≠ 15) ∧
      (loading 0).Answers ⟨6, 0, .error, []⟩ [] ⟨6, 0, .loadEngine, .read, 1⟩ [] ∧
      (atMemory false).Answers ⟨15, 0, .success, [1, 2, 3, 4]⟩ [entry 3] ⟨15, 0, .port 2 7 1, .read, 1⟩ [] :=
  ⟨by decide, by decide, loading_answers 0 .error [], (witness_AnswerReachesAccess false).1⟩

/-- A CLEAN and a DIRTY slot, DRAIN with in-flight 1 and 0, and MARK with no member, one, and two. -/
theorem witness_BoundaryBringsSwap :
    busy.slots[(0 : SlotId)].condition = .clean ∧ (conditioned 0 .dirty busy).slots[(0 : SlotId)].condition = .dirty ∧
      draining.slots[(2 : SlotId)].condition = .sealed drainCommit ∧ drainCommit.boundary = .drain ∧
      draining.slots[(2 : SlotId)].inFlight ≠ 0 ∧
      (conditioned 1 (.sealed drainCommit) translating).slots[(1 : SlotId)].inFlight = 0 ∧
      (conditioned 2 (.sealed (markCommit [])) busy).slots[(2 : SlotId)].condition = .sealed (markCommit []) ∧
      busy.slots[(2 : SlotId)].condition = .sealed (markCommit [1, 3]) ∧ [1, 3] ≠ ([] : List PortId) ∧
      (4 : PortId) ∉ ([1, 3] : List PortId) ∧ (3 : PortId) ∈ ([1, 3] : List PortId) ∧
      (∃ q ∈ ([1, 3] : List PortId), q ≠ 3) ∧ (∀ q ∈ ([3] : List PortId), q = 3) := by decide +kernel
theorem witness_BoundaryBringsSwap_order :
    ([4, 1] : List PortId).Nodup ∧ ([5, 4, 3, 2, 1, 0] : List PortId).Perm (List.finRange 6) := by decide

/-! ### Faults, ticks and leases -/

/-- A counter at 65535 whose number is held, and the number after it too: the search passes from 65535 to 0 and on. -/
theorem witness_RecordsNumberedFromCounter :
    let s := { State.reset with
      faults := [⟨0xFFFF, 1, 0, .lease .early .kept⟩, ⟨0, 2, 0, .lease .early .kept⟩], seqCounter := 0xFFFF }
    s.faults.length ≤ 12 ∧ s.nextSequence = 1 ∧ s.rights.supervisor = some (0, .reset) := by decide +kernel
theorem witness_RecordsNumberedFromCounter_full :
    ((List.finRange 6).flatMap fun p =>
      [(⟨0, p, 0, .lease .early .kept⟩ : FaultRecord), ⟨1, p, 0, .lease .early .kept⟩]).length ≤ 12 := by decide
theorem witness_RecordsNumberedFromCounter_vacant :
    { State.reset with rights := { supervisor := none, standby := none, offer := none } }.rights.supervisor = none := rfl

/-- A lease with 2 ticks left, a timer with 2, and a port with neither. -/
theorem witness_TickTakesEachPartOnce :
    [TickPart.timer 5, .stamp, .lease 0].Nodup ∧ tickParts.reverse.Perm tickParts ∧
      (leased (lease .opened 2 0)).ports[(2 : PortId)].state = .attached ⟨1, lease .opened 2 0⟩ ∧
      (stalled (some 2)).ports[(4 : PortId)].state = .stalled ⟨3, lease .frozen 70 2⟩ ⟨3, 42, some 2⟩ ∧
      State.reset.ports[(2 : PortId)].state = .detached :=
  ⟨by decide, List.reverse_perm _, by decide +kernel, by decide +kernel, by decide +kernel⟩

theorem witness_TickCounts :
    (∀ (p : PortId) (b : Binding), busy.ports[p].state = .attached b → 2 ≤ b.lease.remaining ∧ b.lease.phase ≠ .frozen) ∧
      ∀ (p : PortId) (b : Binding) (st : Stall), busy.ports[p].state = .stalled b st → ∀ n ∈ st.timer, 2 ≤ n := by
  have h : ∀ p : PortId, busy.ports[p].state =
      if p = 1 then .attached ⟨2, lease .opened 70 0⟩
      else if p = 2 then .attached ⟨1, lease .fresh 1024 0⟩
      else if p = 3 then .attached ⟨2, lease .closed 1000 1⟩
      else if p = 4 then .stalled ⟨2, lease .frozen 70 2⟩ ⟨0, 31, some 170⟩
      else if p = 5 then .fenced else .detached := by decide +kernel
  refine ⟨?_, ?_⟩
  · intro p b hb
    rw [h p] at hb
    split_ifs at hb <;> first | exact (PortState.noConfusion hb) | (injection hb with e; subst e; decide)
  · intro p b st hb n hn
    rw [h p] at hb
    split_ifs at hb
    injection hb with e f
    subst f
    rw [Option.mem_some_iff.1 hn |>.symm]
    decide

theorem witness_LeaseViolationsFence :
    (attach 2 1 (lease .closed 1 1) (State.reset.modifyPort 2 ({ · with params := { period := 64, fraction := .half } }))).ports[
        (2 : PortId)].state = .attached ⟨1, lease .closed 1 1⟩ ∧
      (leased (lease .opened 2 0)).ports[(2 : PortId)].state = .attached ⟨1, lease .opened 2 0⟩ ∧
      (1 : Word).extractLsb' 0 8 ≠ (lease .opened 2 0).expected := by decide +kernel
theorem witness_LeaseViolationsFence_unbound (b : Binding) : State.reset.ports[(2 : PortId)].state ≠ .attached b := by
  have : State.reset.ports[(2 : PortId)].state = .detached := by decide +kernel
  rw [this]
  simp

theorem witness_StallTimerExpires :
    (stalled (some 1)).ports[(4 : PortId)].state = .stalled ⟨3, lease .frozen 70 2⟩ ⟨3, 42, some 1⟩ ∧
      (stalled (some 1)).ports[(4 : PortId)].slots[(3 : AccId)] = some ⟨writeOf 0x31 0x02000 1, .stalled⟩ := by decide +kernel
theorem witness_StallTimerExpires_not (b : Binding) (st : Stall)
    (h : (stalled (some 2)).ports[(4 : PortId)].state = .stalled b st) : st.timer ≠ some 1 := by
  have e : (stalled (some 2)).ports[(4 : PortId)].state = .stalled ⟨3, lease .frozen 70 2⟩ ⟨3, 42, some 2⟩ := by decide +kernel
  rw [e] at h
  injection h with _ f
  rw [← f]
  decide

theorem witness_RenewalAcceptedOrIgnored :
    (leased (lease .fresh 60 255)).ports[(2 : PortId)].state = .attached ⟨1, lease .fresh 60 255⟩ ∧
      (leased (lease .opened 75 0)).ports[(2 : PortId)].state = .attached ⟨1, lease .opened 75 0⟩ ∧
      (0xFF : Word).extractLsb' 0 8 = (lease .fresh 60 255).expected ∧
      (0x100 : Word).extractLsb' 0 8 = (lease .opened 75 0).expected := by decide +kernel

/-! ### The control aperture -/

theorem witness_PostAndPop :
    (State.reset.modifyPort 0 ({ · with outstanding := 3 })).ports[(0 : PortId)].outstanding < 4 ∧
      4 ≤ (State.reset.modifyPort 0 ({ · with outstanding := 4 })).ports[(0 : PortId)].outstanding ∧
      State.reset.ports[(0 : PortId)].completions = [] ∧
      (State.reset.modifyPort 0 ({ · with completions := [⟨2, 0x21, .ok, none⟩] })).ports[(0 : PortId)].completions =
        [⟨2, 0x21, .ok, none⟩] := by decide +kernel

/-- An address for each clause, above the first 64 bytes too. -/
theorem witness_ApertureWriteActsByOffset :
    0x43 % 4 ≠ 0 ∧ 0x40 % 64 = 4 * (0 : Fin 4).val ∧ 0x4C % 64 = 4 * (3 : Fin 4).val ∧ 0x50 % 64 = 0x10 ∧ 0x54 % 64 = 0x14 ∧
      0x58 % 64 = 0x18 ∧ 0x60 % 64 = 0x20 ∧ 0x64 % 64 = 0x24 ∧ 0x68 % 64 = 0x28 ∧ 0x5C % 64 = 0x1C ∧ 0x6C % 64 = 0x2C ∧
      0x30 ≤ 0x70 % 64 ∧ 0x30 ≤ 0x7C % 64 := by decide
theorem witness_ApertureWordsRead :
    0x41 % 4 ≠ 0 ∧ 0x50 % 64 = 0x10 ∧ 0x54 % 64 = 0x14 ∧ 0x58 % 64 = 0x18 ∧ 0x6C % 64 = 0x2C ∧ 0x4C % 64 = 4 * (3 : Fin 4).val ∧
      0x5C % 64 = 0x1C ∧ 0x60 % 64 = 0x20 ∧ 0x64 % 64 = 0x24 ∧ 0x68 % 64 = 0x28 := by decide
theorem witness_CompletionWindowRead :
    0x70 % 64 = 0x30 ∧ 0x34 % 64 = 0x34 ∧ 0x1078 % 64 = 0x38 ∧ 0x7C % 64 = 0x3C ∧
    State.reset.ports[(0 : PortId)].completions = [] ∧
      (State.reset.modifyPort 0 ({ · with
        completions := [⟨1, 0x0E, .ok, some (.fault (some ⟨41, 2, 5030, .lease .expired (.lost (some 1))⟩))⟩] })).ports[
          (0 : PortId)].completions =
        [⟨1, 0x0E, .ok, some (.fault (some ⟨41, 2, 5030, .lease .expired (.lost (some 1))⟩))⟩] := by decide +kernel

/-! ### The taking of commands -/

theorem posted_heads (p : PortId) (c : Command) (s : State) (h : (c.record 0x21).command = c) :
    (posted p c s).Heads p (c.record 0x21) c [] :=
  ⟨by simp [posted], h⟩

theorem witness_WithoutRightsRefused :
    let s := posted 1 (.putEntry 255 0 0 2) State.reset
    s.Heads 1 ((Command.putEntry 255 0 0 2).record 0x21) (.putEntry 255 0 0 2) [] ∧ (Command.putEntry 255 0 0 2).NeedsRights ∧
      s.rights.holder ≠ some 1 ∧ Instr.putEntry 1 ∈ (Command.putEntry 255 0 0 2).rows 1 [] :=
  ⟨posted_heads _ _ _ (by decide), trivial, by decide, by decide⟩
theorem witness_UnknownCodeRefused :
    (posted 0 .unknown State.reset).Heads 0 (Command.unknown.record 0x21) .unknown [] ∧
      (Instr.sync 0 ∈ takingRows 0 [] ∧ Instr.sync 0 ∉ Command.unknown.rows 0 []) ∧ State.reset.ports[(0 : PortId)].commands = [] :=
  ⟨posted_heads _ _ _ (by decide), by decide, by decide +kernel⟩

/-- The last slot, the last page, the greatest frame. -/
theorem witness_EditsCarriedOut :
    let s := posted 0 (.putEntry 15 255 4095 3) State.reset
    s.rights.holder = some 0 ∧ (15 : Byte).toNat = (15 : SlotId).val ∧ ¬ s.SealedAt 15 ∧ ¬ s.LoadHeldAt 15 ∧
      s.Heads 0 ((Command.putEntry 15 255 4095 3).record 0x21) (.putEntry 15 255 4095 3) [] ∧
      (255 : Byte).toNat = (255 : Page).val :=
  ⟨rfl, by decide, not_sealedAt (by decide +kernel), not_loadHeldAt (by decide +kernel), posted_heads _ _ _ (by decide),
    by decide⟩
theorem witness_EditsCarriedOut_discard :
    let s := posted 0 (.discard 3) (conditioned 3 .dirty State.reset)
    s.rights.holder = some 0 ∧ ¬ s.SealedAt 3 ∧ ¬ s.LoadHeldAt 3 ∧ s.Heads 0 ((Command.discard 3).record 0x21) (.discard 3) [] ∧
      s.slots[(3 : SlotId)].condition = .dirty ∧ State.reset.slots[(3 : SlotId)].condition = .clean :=
  ⟨rfl, not_sealedAt (by decide +kernel), not_loadHeldAt (by decide +kernel), posted_heads _ _ _ (by decide),
    by decide +kernel, by decide +kernel⟩
theorem witness_EditsCarriedOut_clear :
    let s := posted 0 (.clear 0) State.reset
    s.rights.holder = some 0 ∧ ¬ s.SealedAt 0 ∧ ¬ s.LoadHeldAt 0 ∧ s.Heads 0 ((Command.clear 0).record 0x21) (.clear 0) [] :=
  ⟨rfl, not_sealedAt (by decide +kernel), not_loadHeldAt (by decide +kernel), posted_heads _ _ _ (by decide)⟩

/-- Slot 16, rights code 2, a SEALED slot and a load-held slot. -/
theorem witness_EditsRefused :
    (posted 0 (.clear 16) busy).rights.holder = some 0 ∧
      (posted 0 (.clear 16) busy).Heads 0 ((Command.clear 16).record 0x21) (.clear 16) [] ∧ 16 ≤ (16 : Byte).toNat ∧
      (posted 0 (.putEntry 5 0 0 2) busy).Heads 0 ((Command.putEntry 5 0 0 2).record 0x21) (.putEntry 5 0 0 2) [] ∧
      (posted 0 (.discard 2) busy).SealedAt 2 ∧ (posted 0 (.discard 5) busy).LoadHeldAt 5 :=
  ⟨rfl, posted_heads _ _ _ (by decide), by decide, posted_heads _ _ _ (by decide),
    (isSealed_iff _ _).1 (by decide +kernel), (loadHeld_iff _ _).1 (by decide +kernel)⟩

/-- The whole map at the end of memory, a count of 257, a SEALED slot, a full queue, and room for one more. -/
theorem witness_LoadAcceptedOrRefused :
    let s := posted 0 (.load 15 0 256 0xFFFC00) State.reset
    s.rights.holder = some 0 ∧ s.Heads 0 ((Command.load 15 0 256 0xFFFC00).record 0x21) (.load 15 0 256 0xFFFC00) [] ∧
      LoadInRange s.memsize 0 256 0xFFFC00 ∧ ¬ LoadInRange s.memsize 0 257 0 ∧ ¬ LoadInRange s.memsize 255 2 0 ∧
      ¬ s.SealedAt 15 ∧ s.jobs = [] ∧ (15 : Byte).toNat = (15 : SlotId).val ∧ (0 : Byte).toNat = (0 : Page).val :=
  ⟨rfl, posted_heads _ _ _ (by decide), by unfold LoadInRange; decide, by unfold LoadInRange; decide,
    by unfold LoadInRange; decide, not_sealedAt (by decide +kernel), rfl, by decide, by decide⟩
/-- A load queue with `n` QUEUED jobs behind the RUNNING one. -/
def queued (n : Nat) : State :=
  posted 0 (.load 6 0 1 0) { State.reset with jobs := jobOn 5 (.running 0 .requested) :: List.replicate n (jobOn 5 .queued) }
theorem witness_LoadAcceptedOrRefused_queue :
    (queued 6).Runs (jobOn 5 (.running 0 .requested)) (List.replicate 6 (jobOn 5 .queued)) ∧ 8 ≤ (queued 7).jobs.length ∧
      ¬ (queued 6).SealedAt 6 ∧ (posted 0 (.load 2 0 1 0) busy).SealedAt 2 :=
  ⟨⟨rfl, by decide⟩, by decide, not_sealedAt (by decide +kernel), (isSealed_iff _ _).1 (by decide +kernel)⟩

theorem witness_AbortLoadSweepsQueue :
    let s := posted 0 (.abortLoad 5) busy
    s.rights.holder = some 0 ∧ s.Heads 0 ((Command.abortLoad 5).record 0x21) (.abortLoad 5) [] ∧
      s.Runs (jobOn 5 (.running 1 (.outstanding false))) [{ jobOn 5 .queued with owed := false }] ∧
      [{ jobOn 5 .queued with owed := false }].filter (·.slot = 5) ≠ [] ∧
      [{ jobOn 5 .queued with owed := false }].filter (·.slot = 6) = [] ∧ State.reset.jobs = [] ∧
      (queued 6).Runs (jobOn 5 (.running 0 .requested)) (List.replicate 6 (jobOn 5 .queued)) ∧
      (posted 0 (.abortLoad 16) busy).Heads 0 ((Command.abortLoad 16).record 0x21) (.abortLoad 16) [] :=
  ⟨rfl, posted_heads _ _ _ (by decide), ⟨rfl, by decide⟩, by decide, by decide, rfl, ⟨rfl, by decide⟩,
    posted_heads _ _ _ (by decide)⟩

theorem witness_CommitSealsOrRefuses :
    let s := posted 0 (.commit 2 1) (conditioned 2 .dirty busy)
    s.rights.holder = some 0 ∧ s.Heads 0 ((Command.commit 2 1).record 0x21) (.commit 2 1) [] ∧ ¬ s.LoadHeldAt 2 ∧
      s.slots[(2 : SlotId)].condition = .dirty ∧
      ((List.finRange 6).filter fun q => s.ports[q].state.isAttached && s.ports[q].state.boundSlot? = some 2) = [1, 3] :=
  ⟨rfl, posted_heads _ _ _ (by decide), not_loadHeldAt (by decide +kernel), by decide +kernel, by decide +kernel⟩
/-- DRAIN with in-flight 0 and 1, MARK with no member, a CLEAN slot, the boundary codes 2 and 3. -/
theorem witness_CommitSealsOrRefuses_others :
    let s := posted 0 (.commit 7 0) (conditioned 7 .dirty State.reset)
    s.slots[(7 : SlotId)].inFlight = 0 ∧
      ((List.finRange 6).filter fun q => s.ports[q].state.isAttached && s.ports[q].state.boundSlot? = some 7) = [] ∧
      (conditioned 1 .dirty busy).slots[(1 : SlotId)].inFlight ≠ 0 ∧ (posted 0 (.commit 0 0) busy).slots[(0 : SlotId)].condition =
        .clean ∧ (posted 0 (.commit 0 2) busy).Heads 0 ((Command.commit 0 2).record 0x21) (.commit 0 2) [] ∧
      (posted 0 (.commit 0 3) busy).Heads 0 ((Command.commit 0 3).record 0x21) (.commit 0 3) [] :=
  ⟨by decide +kernel, by decide +kernel, by decide +kernel, by decide +kernel, posted_heads _ _ _ (by decide),
    posted_heads _ _ _ (by decide)⟩

theorem witness_CancelCommitUnseals :
    let s := posted 0 (.cancelCommit 2) busy
    s.rights.holder = some 0 ∧ s.Heads 0 ((Command.cancelCommit 2).record 0x21) (.cancelCommit 2) [] ∧
      s.slots[(2 : SlotId)].condition = .sealed (markCommit [1, 3]) ∧ ¬ s.SealedAt 15 ∧ (2 : Byte).toNat = (2 : SlotId).val :=
  ⟨rfl, posted_heads _ _ _ (by decide), by decide +kernel, not_sealedAt (by decide +kernel), by decide⟩

theorem witness_CancelCommitUnseals_drain :
    let s := posted 0 (.cancelCommit 2) draining
    s.rights.holder = some 0 ∧ s.Heads 0 ((Command.cancelCommit 2).record 0x21) (.cancelCommit 2) [] ∧
      s.slots[(2 : SlotId)].condition = .sealed drainCommit ∧ drainCommit.boundary = .drain :=
  ⟨rfl, posted_heads _ _ _ (by decide), by decide +kernel, rfl⟩

theorem witness_SyncLeavesWaitingSet :
    let s := posted 3 .sync busy
    s.Heads 3 (Command.sync.record 0x21) .sync [] ∧ s.ports[(3 : PortId)].state = .attached ⟨2, lease .closed 1000 1⟩ ∧
      s.slots[(2 : SlotId)].condition = .sealed (markCommit [1, 3]) ∧ (∃ q ∈ ([1, 3] : List PortId), q ≠ 3) ∧
      (conditioned 2 (.sealed (markCommit [3])) s).slots[(2 : SlotId)].condition = .sealed (markCommit [3]) ∧
      ∀ q ∈ ([3] : List PortId), q = 3 :=
  ⟨posted_heads _ _ _ (by decide), by decide +kernel, by decide +kernel, by decide, by decide +kernel, by decide⟩
theorem witness_SyncLeavesWaitingSet_none (b : Binding) (h : State.reset.ports[(0 : PortId)].state.binding? = some b) : False := by
  have e : State.reset.ports[(0 : PortId)].state.binding? = none := by decide +kernel
  rw [e] at h
  cases h

/-- The supervisor, a bound port, and a port that is neither; slot 16. -/
theorem witness_CheckPageReports :
    (posted 4 (.checkPage 2 255) busy).Heads 4 ((Command.checkPage 2 255).record 0x21) (.checkPage 2 255) [] ∧
      (posted 4 (.checkPage 2 255) busy).ports[(4 : PortId)].state.binding? = some ⟨2, lease .frozen 70 2⟩ ∧
      (posted 4 (.checkPage 5 255) busy).rights.holder ≠ some 4 ∧ (posted 0 (.checkPage 5 0) busy).rights.holder = some 0 ∧
      (∃ j behind done read, busy.jobs = j :: behind ∧ j.state = .running done read ∧ j.slot = 5) ∧
      (posted 0 (.checkPage 16 0) busy).Heads 0 ((Command.checkPage 16 0).record 0x21) (.checkPage 16 0) [] :=
  ⟨posted_heads _ _ _ (by decide), by decide +kernel, by decide, rfl, ⟨_, _, _, _, rfl, rfl, rfl⟩,
    posted_heads _ _ _ (by decide)⟩

theorem witness_BindAndUnbind :
    let s := posted 0 (.bind 5 15) busy
    s.rights.holder = some 0 ∧ s.Heads 0 ((Command.bind 5 15).record 0x21) (.bind 5 15) [] ∧ (5 : Byte).toNat = (5 : PortId).val ∧
      (15 : Byte).toNat = (15 : SlotId).val ∧ s.ports[(5 : PortId)].state = .fenced ∧
      s.ports[(4 : PortId)].state = .stalled ⟨2, lease .frozen 70 2⟩ ⟨0, 31, some 170⟩ ∧
      s.ports[(0 : PortId)].state = .detached ∧ s.ports[(1 : PortId)].state = .attached ⟨2, lease .opened 70 0⟩ ∧
      (posted 0 (.unbind 1) busy).Heads 0 ((Command.unbind 1).record 0x21) (.unbind 1) [] :=
  ⟨rfl, posted_heads _ _ _ (by decide), by decide, by decide, by decide +kernel, by decide +kernel, by decide +kernel,
    by decide +kernel, posted_heads _ _ _ (by decide)⟩

/-- A rebind out of a slot that a DRAIN seal holds, and out of one that none does. -/
theorem witness_BindAndUnbind_rebind :
    let s := posted 0 (.bind 3 4) draining
    s.Heads 0 ((Command.bind 3 4).record 0x21) (.bind 3 4) [] ∧ (3 : Byte).toNat = (3 : PortId).val ∧
      s.ports[(3 : PortId)].state = .attached ⟨2, lease .opened 70 0⟩ ∧ (2 : SlotId) ≠ 4 ∧ s.DrainHeld 2 ∧
      ¬ (posted 0 (.bind 1 4) busy).DrainHeld 2 :=
  ⟨posted_heads _ _ _ (by decide), by decide, by decide +kernel, by decide, ⟨drainCommit, by decide +kernel, rfl⟩,
    not_drainHeld (by decide +kernel)⟩

theorem witness_ParametersSet :
    (posted 0 (.setLease 5 2 64) busy).rights.holder = some 0 ∧
      (posted 0 (.setLease 5 2 64) busy).Heads 0 ((Command.setLease 5 2 64).record 0x21) (.setLease 5 2 64) [] ∧
      64 ≤ (64 : BitVec 16).toNat ∧ (63 : BitVec 16).toNat < 64 ∧ busy.ports[(5 : PortId)].state.isBound = false ∧
      busy.ports[(4 : PortId)].state.isBound = true ∧
      (posted 0 (.configure 4096 16) State.reset).Heads 0 ((Command.configure 4096 16).record 0x21) (.configure 4096 16) [] ∧
      (∀ q : PortId, State.reset.ports[q].state.isBound = false) ∧ 4096 < (4097 : BitVec 13).toNat ∧
      ((15 : BitVec 16).toNat ≠ 0 ∧ (15 : BitVec 16).toNat < 16) :=
  ⟨rfl, posted_heads _ _ _ (by decide), by decide, by decide, by decide +kernel, by decide +kernel,
    posted_heads _ _ _ (by decide), by decide +kernel, by decide, by decide⟩

theorem witness_FenceAndUnfence :
    (posted 0 (.fence 4) busy).rights.holder = some 0 ∧
      (posted 0 (.fence 4) busy).Heads 0 ((Command.fence 4).record 0x21) (.fence 4) [] ∧
      busy.ports[(4 : PortId)].state ≠ .fenced ∧ busy.ports[(5 : PortId)].state = .fenced ∧
      (posted 0 (.unfence 5) busy).Heads 0 ((Command.unfence 5).record 0x21) (.unfence 5) [] ∧ 6 ≤ (6 : Byte).toNat :=
  ⟨rfl, posted_heads _ _ _ (by decide), by decide +kernel, by decide +kernel, posted_heads _ _ _ (by decide), by decide⟩

theorem witness_ResolveActs (code : BitVec 2) :
    let s := posted 0 (.resolve 42 code) (stalled none)
    s.rights.holder = some 0 ∧ s.Heads 0 ((Command.resolve 42 code).record 0x21) (.resolve 42 code) [] ∧
      (∃ f ∈ s.faults, f.body.isAccess = true ∧ f.seq = 42 ∧ f.port = 4 ∧ ∀ g ∈ s.faults, g.seq = 42 → g = f) ∧
      s.ports[(4 : PortId)].state = .stalled ⟨3, lease .frozen 70 2⟩ ⟨3, 42, none⟩ ∧
      s.ports[(4 : PortId)].slots[(3 : AccId)] = some ⟨writeOf 0x31 0x02000 1, .stalled⟩ := by
  refine ⟨rfl, posted_heads _ _ _ ?_, ?_, ?_, ?_⟩
  · revert code
    decide
  · have h : ∃ f ∈ (stalled none).faults, f.body.isAccess = true ∧ f.seq = 42 ∧ f.port = 4 ∧
        ∀ g ∈ (stalled none).faults, g.seq = 42 → g = f := by decide
    exact h
  · revert code
    decide +kernel
  · revert code
    decide +kernel
theorem witness_ResolveActs_stale : ∀ f ∈ (stalled none).faults, f.body.isAccess = true → f.seq ≠ 40 := by decide

/-- The oldest and the last record, no record, and a k of 12. -/
theorem witness_ReadFaultReturns :
    (posted 0 (.readFault 11) busy).rights.holder = some 0 ∧
      (posted 0 (.readFault 11) busy).Heads 0 ((Command.readFault 11).record 0x21) (.readFault 11) [] ∧
      (posted 4 (.readFault 0) busy).rights.holder ≠ some 4 ∧ (11 : Byte).toNat < 12 ∧ busy.faults.length ≤ (11 : Byte).toNat ∧ 12 ≤ (12 : Byte).toNat ∧
      ∃ older f, busy.faults = older ++ [f] ∧ older.length = (1 : Byte).toNat :=
  ⟨rfl, posted_heads _ _ _ (by decide), by decide, by decide, by decide, by decide, [_], _, rfl, by decide⟩

/-! ### Supervisor rights -/

theorem witness_StandbyAndHandover :
    (posted 0 (.setStandby 0xFF) busy).rights.holder = some 0 ∧
      (posted 0 (.setStandby 0xFF) busy).Heads 0 ((Command.setStandby 0xFF).record 0x21) (.setStandby 0xFF) [] ∧
      (none : Option PortId) = busy.rights.standby ∧ (some (4 : PortId)) ≠ busy.rights.standby ∧
      busy.ports[(4 : PortId)].state ≠ .fenced ∧ busy.ports[(5 : PortId)].state = .fenced ∧ (5 : PortId) ≠ 0 ∧
      (posted 0 (.handover 4) busy).Heads 0 ((Command.handover 4).record 0x21) (.handover 4) [] ∧
      busy.rights.offer ≠ some 4 ∧
      { busy with rights := { busy.rights with offer := some 4 } }.rights.offer = some 4 ∧ 6 ≤ (6 : Byte).toNat ∧
      (6 : Byte) ≠ 0xFF :=
  ⟨rfl, posted_heads _ _ _ (by decide), rfl, by decide, by decide +kernel, by decide +kernel, by decide,
    posted_heads _ _ _ (by decide), by decide, rfl, by decide, by decide⟩

theorem witness_AcceptAndClaim :
    let s := { busy with rights := { supervisor := some (2, .claim), standby := some 4, offer := some 4 } }
    (posted 4 .accept s).Heads 4 (Command.accept.record 0x21) .accept [] ∧ s.rights.offer = some 4 ∧ s.rights.offer ≠ some 1 ∧
      (posted 1 .claim s).Heads 1 (Command.claim.record 0x21) .claim [] ∧ s.rights.supervisor = some (2, .claim) ∧
      busy.rights.supervisor = some (0, .reset) ∧
      { busy with rights := { supervisor := none, standby := some 4, offer := none } }.rights.supervisor = none ∧
      (∃ b, busy.ports[(1 : PortId)].state = .attached b) ∧ ∀ b, busy.ports[(4 : PortId)].state ≠ .attached b :=
  ⟨posted_heads _ _ _ (by decide), rfl, by decide, posted_heads _ _ _ (by decide), rfl, rfl, rfl, ⟨_, rfl⟩, fun b h => by
    have e : busy.ports[(4 : PortId)].state = .stalled ⟨2, lease .frozen 70 2⟩ ⟨0, 31, some 170⟩ := by decide +kernel
    rw [e] at h
    cases h⟩

/-- SET_STANDBY(P1) from reset changes P1's role. -/
theorem witness_RoleChangesRaiseFlag :
    (after (.setStandby 0) (posted 0 (.setStandby 1) State.reset)).any (fun t => t.rights.role 1 ≠ .none) = true ∧
      State.reset.rights.role 1 = .none := by decide +kernel
/-- COMMIT of a DIRTY slot changes its live image. -/
theorem witness_LiveImageChangesBySwap :
    (after (.commit 0 []) (posted 0 (.commit 3 0) (State.reset.modifySlot 3 fun m =>
        { m with staged := m.staged.set 4 ⟨812, .rw⟩, condition := .dirty }))).any
        (fun t => t.slots[(3 : SlotId)].live[(4 : Page)] ≠ ⟨0, .none⟩) = true ∧
      State.reset.slots[(3 : SlotId)].live[(4 : Page)] = ⟨0, .none⟩ := by decide +kernel

end Sys2Proof.Tests
end

section
/-! The commands on the map store: what each makes of a record taken from the head of a command queue, said once for each
outcome, and the statements of chapter 1 about them. -/

namespace Sys2Proof.Machine

/-! ## Records taken -/

/-- What a record taken from port `p` is known by when it completes (R173). -/
def CommandRecord.takenAt (r : CommandRecord) (p : PortId) : Taken := { port := p, tag := r.tag, code := r.code }

/-- A supervisor-only command at the head of the holder's queue is carried out on the state without its record. -/
theorem take_of_heads_of_holder {s : State} {p : PortId} {r : CommandRecord} {c : Command} {rest : List CommandRecord}
    {body : Taken → Command → State → Option State} {carryOut : Taken → State → State} (h : s.Heads p r c rest)
    (hp : s.rights.holder = some p) (hb : ∀ t u, body t c u = some (u.supervisorOnly t (carryOut t))) :
    s.take p body = carryOut (r.takenAt p) (s.taken p rest) := by
  refine take_of_heads h _ ?_
  rw [hb, supervisorOnly_eq, if_pos (by simpa using hp)]
  rfl

theorem completed_eq_complete (s : State) (p : PortId) (r : CommandRecord) (rest : List CommandRecord) (status : Status)
    (result : Option Result) :
    s.completed p r rest status result = (s.taken p rest).complete (r.takenAt p) status result := rfl

section Rows
variable {s : State} {p : PortId} {r : CommandRecord} {rest : List CommandRecord} {slot page : Byte}

theorem exec_putEntry_of_heads {frame : Frame} {code : BitVec 2} (hp : s.rights.holder = some p)
    (h : s.Heads p r (.putEntry slot page frame code) rest) :
    exec (.putEntry p) s = .next ((s.taken p rest).putEntry (r.takenAt p) slot page frame code) :=
  congrArg Host.Outcome.next <|
    take_of_heads_of_holder (carryOut := fun t u => u.putEntry t slot page frame code) h hp fun _ _ => rfl

theorem exec_clear_of_heads (hp : s.rights.holder = some p) (h : s.Heads p r (.clear slot) rest) :
    exec (.clear p) s = .next ((s.taken p rest).clear (r.takenAt p) slot) :=
  congrArg Host.Outcome.next <| take_of_heads_of_holder (carryOut := fun t u => u.clear t slot) h hp fun _ _ => rfl

theorem exec_discard_of_heads (hp : s.rights.holder = some p) (h : s.Heads p r (.discard slot) rest) :
    exec (.discard p) s = .next ((s.taken p rest).discard (r.takenAt p) slot) :=
  congrArg Host.Outcome.next <| take_of_heads_of_holder (carryOut := fun t u => u.discard t slot) h hp fun _ _ => rfl

theorem exec_checkPage_of_heads (h : s.Heads p r (.checkPage slot page) rest) :
    exec (.checkPage p) s = .next ((s.taken p rest).checkPage (r.takenAt p) slot page) :=
  congrArg Host.Outcome.next <| take_of_heads h _ rfl

end Rows

/-! ## Rights codes -/

/-- R2: the codes 0, 1 and 3 name the rights NONE, RO and RW. -/
theorem rightsOf_eq_some {code : BitVec 2} {g : Rights}
    (h : code = 0 ∧ g = .none ∨ code = 1 ∧ g = .ro ∨ code = 3 ∧ g = .rw) : rightsOf code = some g := by
  rcases h with ⟨rfl, rfl⟩ | ⟨rfl, rfl⟩ | ⟨rfl, rfl⟩ <;> rfl

/-- R2: the code 2 alone names no rights. -/
theorem rightsOf_eq_none_iff (code : BitVec 2) : rightsOf code = none ↔ code = 2 := by
  revert code
  decide

theorem exists_rightsOf_of_ne_two {code : BitVec 2} (h : code ≠ 2) : ∃ g, rightsOf code = some g :=
  Option.ne_none_iff_exists'.1 (mt (rightsOf_eq_none_iff code).1 h)

/-! ## The edits past the rights check: ranges first, then SEALED or load-held (R10) -/

section Edits
variable {s : State} {t : Taken} {slot page : Byte} {n : SlotId} {frame : Frame} {code : BitVec 2}

theorem unlessBusy_of_busy {carryOut : State} (h : s.SealedAt n ∨ s.LoadHeldAt n) :
    s.unlessBusy t n carryOut = s.complete t .slotBusy := by
  rw [← isSealed_iff, ← loadHeld_iff, ← Bool.or_eq_true] at h
  exact if_pos h

theorem unlessBusy_of_free {carryOut : State} (hs : ¬ s.SealedAt n) (hl : ¬ s.LoadHeldAt n) :
    s.unlessBusy t n carryOut = carryOut := by
  have h := not_or.2 ⟨hs, hl⟩
  rw [← isSealed_iff, ← loadHeld_iff, ← Bool.or_eq_true] at h
  exact if_neg h

theorem putEntry_of_inRange {g : Rights} {pg : Page} (hn : slot.toNat = n.val) (hpg : page.toNat = pg.val)
    (hg : rightsOf code = some g) :
    s.putEntry t slot page frame code =
      s.unlessBusy t n
        ((s.modifySlot n fun m =>
          { m with staged := m.staged.set pg { frame := frame, rights := g }, condition := .dirty }).complete t .ok) := by
  obtain rfl := pageOf_eq hpg
  unfold State.putEntry
  rw [slotOf_eq_some hn, hg]

theorem putEntry_of_outOfRange (h : 16 ≤ slot.toNat ∨ code = 2) :
    s.putEntry t slot page frame code = s.complete t .badArgument := by
  unfold State.putEntry
  rcases h with h | h
  · rw [slotOf_eq_none h]
  · rw [(rightsOf_eq_none_iff code).2 h]
    cases slotOf slot <;> rfl

theorem clear_of_inRange (hn : slot.toNat = n.val) :
    s.clear t slot =
      s.unlessBusy t n
        ((s.modifySlot n fun m => { m with staged := Image.empty, condition := .dirty }).complete t .ok) := by
  unfold State.clear
  rw [slotOf_eq_some hn]

theorem clear_of_outOfRange (h : 16 ≤ slot.toNat) : s.clear t slot = s.complete t .badArgument := by
  unfold State.clear
  rw [slotOf_eq_none h]

theorem discard_of_inRange (hn : slot.toNat = n.val) :
    s.discard t slot =
      s.unlessBusy t n
        (if s.slots[n].condition = .clean then s.complete t .noEffect
          else (s.modifySlot n fun m => { m with staged := m.live, condition := .clean }).complete t .ok) := by
  unfold State.discard
  rw [slotOf_eq_some hn]
  rfl

theorem discard_of_outOfRange (h : 16 ≤ slot.toNat) : s.discard t slot = s.complete t .badArgument := by
  unfold State.discard
  rw [slotOf_eq_none h]

end Edits

/-- Settles O42: past the rights check and the tests of R10, what each edit writes is what the model's row writes. -/
theorem editsCarriedOut : Obligations.EditsCarriedOut := by
  intro s p r rest n slot hp hn hs hl
  have free : ∀ t carryOut, (s.taken p rest).unlessBusy t n carryOut = carryOut := fun _ _ => unlessBusy_of_free hs hl
  refine ⟨fun page frame code pg g h hpg hg => ?_, fun h => ?_, fun h => ⟨fun hc => ?_, fun hc => ?_⟩⟩
  · rw [exec_putEntry_of_heads hp h, putEntry_of_inRange hn hpg (rightsOf_eq_some hg), free]
    rfl
  · rw [exec_clear_of_heads hp h, clear_of_inRange hn, free]
    rfl
  · rw [exec_discard_of_heads hp h, discard_of_inRange hn, free, taken_slots, if_neg fun e => by cases hc.symm.trans e]
    rfl
  · rw [exec_discard_of_heads hp h, discard_of_inRange hn, free, taken_slots, if_pos hc, completed_eq_complete]

/-- Settles O43: by the command; the range tests come first, then the test for SEALED or load-held. -/
theorem editsRefused : Obligations.EditsRefused := by
  intro s p r rest slot page frame code c hp h hc i hi
  have busy : ∀ t n carryOut, s.SealedAt n ∨ s.LoadHeldAt n →
      (s.taken p rest).unlessBusy t n carryOut = (s.taken p rest).complete t .slotBusy :=
    fun _ _ _ => unlessBusy_of_busy (s := s.taken p rest)
  rcases hc with rfl | rfl | rfl
  case inl =>
    obtain rfl : i = .putEntry p := List.mem_singleton.1 hi
    rw [exec_putEntry_of_heads hp h]
    simp only [completed_eq_complete, ne_eq, Command.putEntry.injEq, true_and]
    refine ⟨fun hr => by rw [putEntry_of_outOfRange hr], fun n hn hcode hb => ?_⟩
    obtain ⟨g, hg⟩ := exists_rightsOf_of_ne_two hcode
    rw [putEntry_of_inRange (pg := page.toFin) hn rfl hg, busy _ n _ hb]
  case inr.inl =>
    obtain rfl : i = .clear p := List.mem_singleton.1 hi
    rw [exec_clear_of_heads hp h]
    simp only [completed_eq_complete, reduceCtorEq, or_false]
    exact ⟨fun hr => by rw [clear_of_outOfRange hr],
      fun n hn _ hb => by rw [clear_of_inRange hn, busy _ n _ hb]⟩
  case inr.inr =>
    obtain rfl : i = .discard p := List.mem_singleton.1 hi
    rw [exec_discard_of_heads hp h]
    simp only [completed_eq_complete, reduceCtorEq, or_false]
    exact ⟨fun hr => by rw [discard_of_outOfRange hr],
      fun n hn _ hb => by rw [discard_of_inRange hn, busy _ n _ hb]⟩

/-! ## CHECK_PAGE -/

theorem boundSlot?_eq_some_iff (st : PortState) (n : SlotId) :
    st.boundSlot? = some n ↔ ∃ b, st.binding? = some b ∧ b.slot = n :=
  Option.map_eq_some_iff

/-- R17, R60: the RUNNING job is the head of the load queue when that is not QUEUED. -/
theorem runningNames_iff (s : State) (n : SlotId) :
    s.runningNames n = true ↔ ∃ j behind done read, s.jobs = j :: behind ∧ j.state = .running done read ∧ j.slot = n := by
  unfold State.runningNames
  cases s.jobs with
  | nil => simp
  | cons j behind => cases hj : j.state <;> simp [hj]

/-- R16: the ports that may name slot `n` in a CHECK_PAGE. -/
def State.MayCheck (s : State) (p : PortId) (n : SlotId) : Prop :=
  s.rights.holder = some p ∨ ∃ b, s.ports[p].state.binding? = some b ∧ b.slot = n

theorem mayCheck_taken (s : State) (p : PortId) (rest : List CommandRecord) (n : SlotId) :
    (s.taken p rest).MayCheck p n ↔ s.MayCheck p n := by
  unfold State.MayCheck
  rw [taken_state, taken_rights]

section CheckPage
variable {s : State} {t : Taken} {slot page : Byte} {n : SlotId}

theorem checkPage_of_outOfRange (h : 16 ≤ slot.toNat) : s.checkPage t slot page = s.complete t .badArgument := by
  unfold State.checkPage
  rw [slotOf_eq_none h]

theorem checkPage_of_mayCheck {pg : Page} (hn : slot.toNat = n.val) (hpg : page.toNat = pg.val) (h : s.MayCheck t.port n) :
    s.checkPage t slot page = s.complete t .ok (some (.page (s.pageReport n pg))) := by
  unfold State.checkPage
  rw [slotOf_eq_some hn, pageOf_eq hpg]
  refine if_pos ?_
  rw [Bool.or_eq_true, decide_eq_true_iff, boundSlot?_eq_some_iff]
  exact h.imp_left isSupervisor_of_holder

theorem checkPage_of_not_mayCheck (hn : slot.toNat = n.val) (h : ¬ s.MayCheck t.port n) :
    s.checkPage t slot page = s.complete t .notSupervisor := by
  obtain ⟨hp, hb⟩ := not_or.1 h
  unfold State.checkPage
  rw [slotOf_eq_some hn]
  refine if_neg ?_
  rw [isSupervisor_of_not_holder hp, Bool.false_or, decide_eq_true_iff, boundSlot?_eq_some_iff]
  exact hb

end CheckPage

/-- R17: the report of a page, over the jobs as a list and whether the running one names the slot. -/
theorem pageReport_eq {s : State} {n : SlotId} {running : Bool} (pg : Page)
    (h : running = true ↔ ∃ j behind done read, s.jobs = j :: behind ∧ j.state = .running done read ∧ j.slot = n) :
    s.pageReport n pg =
      { live := s.slots[n].live[pg], staged := s.slots[n].staged[pg], condition := s.slots[n].condition
        jobs := (s.jobs.filter (·.slot = n)).length, running := running, binders := s.slots[n].binders
        inFlight := s.slots[n].inFlight } := by
  have hr : s.runningNames n = running := Bool.eq_iff_iff.2 ((runningNames_iff s n).trans h.symm)
  unfold State.pageReport State.jobCount
  rw [hr, List.countP_eq_length_filter]
  rfl

/-- Settles O49: the taking of the record changes neither who may name the slot nor what is reported of it. -/
theorem checkPageReports : Obligations.CheckPageReports := by
  intro s p r rest slot page n pg running h
  rw [exec_checkPage_of_heads h]
  simp only [completed_eq_complete]
  refine ⟨fun hr => by rw [checkPage_of_outOfRange hr], fun hn hpg hrun => ⟨fun hmay => ?_, fun hp hb => ?_⟩⟩
  · rw [checkPage_of_mayCheck hn hpg ((mayCheck_taken s p rest n).2 hmay), ← pageReport_eq pg hrun]
    rfl
  · have hno : ¬ s.MayCheck p n := not_or.2 ⟨hp, fun ⟨b, hs, hbn⟩ => hb b hs hbn⟩
    rw [checkPage_of_not_mayCheck hn (mt (mayCheck_taken s p rest n).1 hno)]

end Sys2Proof.Machine
end

section
/-! Memory's answers at the memory port: what taking one leaves of the port's own state, said once for each operation that an
answer can bring, and the statement of chapter 3 about the answers that are taken and those that are ignored. -/

namespace Sys2Proof.Machine

/-! ## The memory port apart from its issue queues -/

/-- The memory port with its issue queues emptied: what translation, which only issues (R47), cannot change. -/
def MemPort.apartFromIssue (m : MemPort) : MemPort := { m with issue := MemPort.reset.issue }

theorem apartFromIssue_eq_iff (m m' : MemPort) : m'.apartFromIssue = m.apartFromIssue ↔ m' = { m with issue := m'.issue } := by
  cases m
  cases m'
  simp [MemPort.apartFromIssue]

@[simp] theorem enqueue_apartFromIssue (m : MemPort) (p : PortId) (t : Issued) :
    (m.enqueue p t).apartFromIssue = m.apartFromIssue := rfl

section Translation
variable (s : State)

@[simp] theorem issueAccess_mem (p : PortId) (k : AccId) (a : Access) (n : SlotId) (frame : Frame) :
    (s.issueAccess p k a n frame).mem = s.mem.enqueue p (issuedTransaction k a n frame) := rfl

/-- Of the outcomes of the checks (R28 to R33) only an issue reaches the memory port. -/
theorem translateBound_apartFromIssue (p : PortId) (k : AccId) (a : Access) (b : Binding) :
    (s.translateBound p k a b).mem.apartFromIssue = s.mem.apartFromIssue := by
  unfold State.translateBound
  split
  case isTrue => rfl
  split
  case isFalse => rw [State.answerHead_mem]
  split
  · rw [State.stallPort_mem]
  · rw [issueAccess_mem, enqueue_apartFromIssue]

theorem translateHead_apartFromIssue (p : PortId) : (s.translateHead p).mem.apartFromIssue = s.mem.apartFromIssue := by
  unfold State.translateHead
  cases (s.port p).head? with
  | none => rfl
  | some head => cases (s.port p).state with
    | detached | fenced => exact congrArg _ (State.answerHead_mem ..)
    | stalled => rfl
    | attached b => exact translateBound_apartFromIssue s p head.1 head.2 b

theorem release_apartFromIssue (n : SlotId) (first : List PortId) :
    (s.release n first).mem.apartFromIssue = s.mem.apartFromIssue :=
  foldl_translateHead (·.mem.apartFromIssue) translateHead_apartFromIssue _ s

/-- A swap reaches the memory port only by the head accesses that the end of a DRAIN hold translates (R89). -/
theorem testBoundary_apartFromIssue (n : SlotId) (first : List PortId) :
    (s.testBoundary n first).mem.apartFromIssue = s.mem.apartFromIssue := by
  unfold State.testBoundary
  split
  case h_2 | h_3 => rfl
  split
  case isFalse => rfl
  split
  · rw [State.swapDrain, State.completeCommit_mem, release_apartFromIssue, State.modifySlot_mem]
  · rw [State.swapMark_mem]

theorem answerPort_apartFromIssue (p : PortId) (k : AccId) (through : SlotId) (outcome : MemOutcome) (data : List Byte)
    (first : List PortId) :
    (s.answerPort p k through outcome data first).mem.apartFromIssue = s.mem.apartFromIssue :=
  testBoundary_apartFromIssue ..

end Translation

/-! ## The load engine takes an answer without the memory port -/

section Load
variable (s : State)

@[simp] theorem descriptorWrite_mem (n : SlotId) (page : Page) (d : Descriptor) :
    (s.descriptorWrite n page d).mem = s.mem := by cases d <;> rfl

@[simp] theorem endRunning_mem (status : Status) (done : Nat) : (s.endRunning status done).mem = s.mem := by
  unfold State.endRunning
  cases s.jobs with
  | nil => rfl
  | cons j rest => exact State.completeJob_mem ..

@[simp] theorem pageDone_mem (j : Job) (rest : List Job) (done : Nat) : (s.pageDone j rest done).mem = s.mem := by
  unfold State.pageDone
  split
  · exact endRunning_mem ..
  · rfl

/-- Each way an answer can end or go on with the RUNNING job (R65 to R69, R73) leaves the memory port. -/
@[simp] theorem answerLoad_mem (outcome : MemOutcome) (data : List Byte) : (s.answerLoad outcome data).mem = s.mem := by
  unfold State.answerLoad
  split
  case h_1 => rfl
  split
  case h_1 => exact endRunning_mem ..
  case h_3 | h_4 => rfl
  split
  case h_1 => exact endRunning_mem ..
  split
  · exact endRunning_mem ..
  · rw [pageDone_mem, descriptorWrite_mem]

end Load

/-! ## Answers taken and answers ignored -/

/-- R55: an answer of another generation, or with a number that no entry has, changes nothing. -/
theorem memoryAnswer_of_unmatched {s : State} {x : MemAnswer} (first : List PortId)
    (h : x.generation ≠ s.mem.generation ∨ ∀ e ∈ s.mem.entries, e.number ≠ x.number) : s.memoryAnswer x first = s := by
  unfold State.memoryAnswer
  rcases h with hgen | hnum
  · rw [if_neg hgen]
  · have hfind : s.mem.entries.find? (·.number = x.number) = none :=
      List.find?_eq_none.2 fun e he => by simpa using hnum e he
    rw [hfind]
    exact ite_self s

/-- Settles O26, by whether the answer matches an entry and, if so, by the requester it is routed to. -/
theorem otherAnswersIgnored : Obligations.OtherAnswersIgnored := by
  intro s x first
  refine ⟨fun h => ?_, fun before e after h => ⟨fun ⟨p, k, n, hport⟩ => ⟨_, rfl, ?_⟩, fun hload => ⟨_, rfl, ?_⟩⟩⟩
  · have hs : .next (s.memoryAnswer x first) = (.next s : Outcome) := by rw [memoryAnswer_of_unmatched first h]
    exact ⟨hs, hs⟩
  · rw [memoryAnswer_of_answers h, hport]
    exact (apartFromIssue_eq_iff { s.mem with entries := before ++ after } _).1 (answerPort_apartFromIssue ..)
  · rw [memoryAnswer_of_answers h, hload]
    exact answerLoad_mem ..

end Sys2Proof.Machine
end

section
/-! ABORT_LOAD: what the pass over the load queue makes of the job at its head, and the statement of chapter 4 about the
jobs that end, those that receive the abort mark, and the completions that join. -/

namespace Sys2Proof.Machine

/-! ## The completions of the jobs that end -/

/-- Jobs that end with no pages done complete in the order in which they stood in the queue (R71, R72). -/
theorem completeAborted_of_zero (jobs : List Job) (s : State) :
    s.completeAborted (jobs.map (·, 0)) = jobs.foldl (fun u k => u.loadCompleted k .aborted 0) s := by
  induction jobs generalizing s with
  | nil => rfl
  | cons j rest ih => exact ih (s.loadCompleted j .aborted 0)

/-! ## The head of the load queue -/

section Head
variable {n : SlotId} {j k : Job} {rest : List Job} {done : Nat} {read : ReadState}

theorem startHead_of_running (h : j.state = .running done read) : startHead (j :: rest) = j :: rest := by
  rw [startHead, h]

theorem abortSweep_cons_of_other (hs : j.slot ≠ n) :
    abortSweep n (j :: rest) = { abortSweep n rest with stay := j :: (abortSweep n rest).stay } := if_neg hs

theorem abortSweep_cons_of_passes (hs : j.slot = n) (h : j.abortStep = .passes) :
    abortSweep n (j :: rest) = { abortSweep n rest with stay := j :: (abortSweep n rest).stay } := by
  rw [abortSweep, if_pos hs, h]

theorem abortSweep_cons_of_ends (hs : j.slot = n) (h : j.abortStep = .ends done) :
    abortSweep n (j :: rest) =
      { abortSweep n rest with
        ended := (j, done) :: (abortSweep n rest).ended, taken := (abortSweep n rest).taken + 1 } := by
  rw [abortSweep, if_pos hs, h]

theorem abortSweep_cons_of_marks (hs : j.slot = n) (h : j.abortStep = .marks k) :
    abortSweep n (j :: rest) =
      { abortSweep n rest with stay := k :: (abortSweep n rest).stay, taken := (abortSweep n rest).taken + 1 } := by
  rw [abortSweep, if_pos hs, h]

theorem abortStep_of_requested (h : j.state = .running done .requested) : j.abortStep = .ends done := by
  rw [Job.abortStep, h]

theorem abortStep_of_outstanding (h : j.state = .running done (.outstanding false)) :
    j.abortStep = .marks { j with state := .running done (.outstanding true) } := by
  rw [Job.abortStep, h]

theorem abortStep_of_marked (h : j.state = .running done (.outstanding true)) : j.abortStep = .passes := by
  rw [Job.abortStep, h]

/-- R72: the pass leaves alone a RUNNING job of another slot, and one that carries the abort mark already. -/
theorem abortSweep_cons_of_untaken (hj : j.state = .running done read) (h : j.slot ≠ n ∨ read = .outstanding true) :
    abortSweep n (j :: rest) = { abortSweep n rest with stay := j :: (abortSweep n rest).stay } := by
  by_cases hs : j.slot = n
  · obtain rfl := h.resolve_left (not_not_intro hs)
    exact abortSweep_cons_of_passes hs (abortStep_of_marked hj)
  · exact abortSweep_cons_of_other hs

end Head

/-! ## ABORT_LOAD past the rights check -/

section AbortLoad
variable {s : State} {t : Taken} {p : PortId} {r : CommandRecord} {rest : List CommandRecord} {slot : Byte} {n : SlotId}

theorem exec_abortLoad_of_heads (hp : s.rights.holder = some p) (h : s.Heads p r (.abortLoad slot) rest) :
    exec (.abortLoad p) s = .next ((s.taken p rest).abortLoad (r.takenAt p) slot) :=
  congrArg Host.Outcome.next <| take_of_heads_of_holder (carryOut := fun t u => u.abortLoad t slot) h hp fun _ _ => rfl

theorem abortLoad_of_outOfRange (h : 16 ≤ slot.toNat) : s.abortLoad t slot = s.complete t .badArgument := by
  unfold State.abortLoad
  rw [slotOf_eq_none h]

theorem abortLoad_of_none_taken {w : AbortSweep} (hn : slot.toNat = n.val) (hw : abortSweep n s.jobs = w)
    (h : w.taken = 0) : s.abortLoad t slot = s.complete t .noEffect := by
  subst hw
  unfold State.abortLoad
  rw [slotOf_eq_some hn]
  exact if_pos h

theorem abortLoad_of_taken {w : AbortSweep} (hn : slot.toNat = n.val) (hw : abortSweep n s.jobs = w) (h : w.taken ≠ 0) :
    s.abortLoad t slot =
      (State.completeAborted { s with jobs := startHead w.stay } w.ended).complete t .ok
        (some (.abortedNumber w.taken)) := by
  subst hw
  unfold State.abortLoad
  rw [slotOf_eq_some hn]
  exact if_neg h

end AbortLoad

/-- Settles O45, by what the pass makes of the RUNNING job: the QUEUED jobs behind it end in every case. -/
theorem abortLoadSweepsQueue : Obligations.AbortLoadSweepsQueue := by
  intro s p r rest slot n hp h
  rw [exec_abortLoad_of_heads hp h]
  simp only [completed_eq_complete]
  refine ⟨fun hr => by rw [abortLoad_of_outOfRange hr], fun hn => ⟨fun hjobs => ?_, ?_⟩⟩
  · have hw : abortSweep n s.jobs = { stay := [], ended := [], taken := 0 } := by rw [hjobs, abortSweep]
    rw [abortLoad_of_none_taken (s := s.taken p rest) hn hw rfl]
  rintro j behind _ _ done read ⟨hjobs, hq⟩ hj rfl rfl
  have hbehind := abortSweep_of_queued n hq
  refine ⟨fun huntaken => ?_, fun hs hread => ?_, fun hs hread => ?_⟩
  · have hw := abortSweep_cons_of_untaken (rest := behind) hj huntaken
    rw [hbehind, ← hjobs] at hw
    refine ⟨fun hnone => ?_, fun hsome => ?_⟩
    · rw [abortLoad_of_none_taken (s := s.taken p rest) hn hw (List.length_eq_zero_iff.2 hnone)]
    · rw [abortLoad_of_taken (s := s.taken p rest) hn hw (mt List.length_eq_zero_iff.1 hsome), completeAborted_of_zero,
        startHead_of_running hj]
      rfl
  · subst hread
    have hw := abortSweep_cons_of_ends (rest := behind) hs (abortStep_of_requested hj)
    rw [hbehind, ← hjobs] at hw
    have hothers : ∀ k ∈ behind.filter (·.slot ≠ n), k.state = .queued := fun k hk => hq k (List.mem_of_mem_filter hk)
    rw [abortLoad_of_taken (s := s.taken p rest) hn hw (Nat.succ_ne_zero _), State.completeAborted,
      completeAborted_of_zero, startHead_of_queued hothers]
    rfl
  · subst hread
    have hw := abortSweep_cons_of_marks (rest := behind) hs (abortStep_of_outstanding hj)
    rw [hbehind, ← hjobs] at hw
    rw [abortLoad_of_taken (s := s.taken p rest) hn hw (Nat.succ_ne_zero _), completeAborted_of_zero,
      startHead_of_running rfl]
    rfl

end Sys2Proof.Machine
end

section
/-! SYNC: the two outcomes of a SYNC at the head of a command queue, by whether its port is a member of the waiting set of its
bound slot, and the statement of chapter 5 about them. -/

namespace Sys2Proof.Machine

/-- R17: a slot has waiting members only while it is SEALED with boundary MARK. -/
theorem mem_waiting_iff (x : Condition) (p : PortId) :
    p ∈ x.waiting ↔ ∃ c waiting, x = .sealed c ∧ c.boundary = .mark waiting ∧ p ∈ waiting := by
  cases x with
  | clean | dirty => simp [Condition.waiting]
  | sealed c => cases hb : c.boundary <;> simp [Condition.waiting, hb]

/-- R88: the port is a member of the waiting set of its bound slot. -/
def State.WaitsAtBoundSlot (s : State) (p : PortId) : Prop :=
  ∃ n, s.ports[p].state.boundSlot? = some n ∧ p ∈ s.slots[n].condition.waiting

theorem waitsAtBoundSlot_iff (s : State) (p : PortId) :
    s.WaitsAtBoundSlot p ↔
      ∃ b c waiting, s.ports[p].state.binding? = some b ∧ s.slots[b.slot].condition = .sealed c ∧
        c.boundary = .mark waiting ∧ p ∈ waiting := by
  unfold State.WaitsAtBoundSlot
  simp only [boundSlot?_eq_some_iff, mem_waiting_iff]
  constructor
  · rintro ⟨_, ⟨b, hb, rfl⟩, c, waiting, hc, hmark, hp⟩
    exact ⟨b, c, waiting, hb, hc, hmark, hp⟩
  · rintro ⟨b, c, waiting, hb, hc, hmark, hp⟩
    exact ⟨b.slot, ⟨b, hb, rfl⟩, c, waiting, hc, hmark, hp⟩

theorem waitsAtBoundSlot_taken (s : State) (p : PortId) (rest : List CommandRecord) :
    (s.taken p rest).WaitsAtBoundSlot p ↔ s.WaitsAtBoundSlot p := by
  unfold State.WaitsAtBoundSlot
  rw [taken_state, taken_slots]

section Sync
variable {s : State} {t : Taken}

theorem sync_of_mem_waiting {n : SlotId} (hn : s.ports[t.port].state.boundSlot? = some n)
    (hp : t.port ∈ s.slots[n].condition.waiting) : s.sync t = (s.leaveWaiting t.port n).complete t .ok := by
  unfold State.sync State.port
  rw [hn]
  exact if_pos hp

theorem sync_of_not_waitsAtBoundSlot (h : ¬ s.WaitsAtBoundSlot t.port) : s.sync t = s.complete t .noEffect := by
  unfold State.sync State.port
  cases hn : s.ports[t.port].state.boundSlot? with
  | none => rfl
  | some n => exact if_neg fun hp => h ⟨n, hn, hp⟩

end Sync

section Row
variable {s : State} {p : PortId} {r : CommandRecord} {rest : List CommandRecord}

theorem exec_sync_of_heads (h : s.Heads p r .sync rest) :
    exec (.sync p) s = .next ((s.taken p rest).sync (r.takenAt p)) :=
  congrArg Host.Outcome.next <| take_of_heads h _ rfl

/-- The SYNC's own completion joins after what the port's leaving of the waiting set brings. -/
theorem exec_sync_of_mem_waiting {n : SlotId} (h : s.Heads p r .sync rest) (hn : s.ports[p].state.boundSlot? = some n)
    (hp : p ∈ s.slots[n].condition.waiting) :
    exec (.sync p) s = .next (((s.taken p rest).leaveWaiting p n).joined p (r.completion .ok)) := by
  have hbound : (s.taken p rest).ports[p].state.boundSlot? = some n := by rw [taken_state, hn]
  rw [exec_sync_of_heads h, sync_of_mem_waiting (t := r.takenAt p) hbound hp]
  rfl

theorem exec_sync_of_not_waitsAtBoundSlot (h : s.Heads p r .sync rest) (hno : ¬ s.WaitsAtBoundSlot p) :
    exec (.sync p) s = .next (s.completed p r rest .noEffect) := by
  have htaken : ¬ (s.taken p rest).WaitsAtBoundSlot p := mt (waitsAtBoundSlot_taken s p rest).1 hno
  rw [exec_sync_of_heads h, sync_of_not_waitsAtBoundSlot (t := r.takenAt p) htaken, completed_eq_complete]

end Row

/-- Settles O48, by whether the port is a member of the waiting set and, if so, whether others stay in it: the taking of the
record changes no waiting set. -/
theorem syncLeavesWaitingSet : Obligations.SyncLeavesWaitingSet := by
  intro s p r rest h
  refine ⟨fun b c waiting hb hc hmark hp => ?_, fun hnot => ?_⟩
  · have hn : s.ports[p].state.boundSlot? = some b.slot := by rw [hb]; rfl
    have hmem : p ∈ s.slots[b.slot].condition.waiting := (mem_waiting_iff _ p).2 ⟨c, waiting, hc, hmark, hp⟩
    rw [exec_sync_of_mem_waiting h hn hmem, leaveWaiting_of_mem (s := s.taken p rest) hc hmark hp]
    refine ⟨fun ⟨q, hq, hne⟩ => ?_, fun hlast => ?_⟩
    · rw [if_neg fun hall => hne (hall q hq)]
      rfl
    · rw [if_pos hlast]
  · refine exec_sync_of_not_waitsAtBoundSlot h fun hwaits => ?_
    obtain ⟨b, c, waiting, hb, hc, hmark, hp⟩ := (waitsAtBoundSlot_iff s p).1 hwaits
    exact hnot b c waiting hb hc hmark hp

end Sys2Proof.Machine
end

section
/-! Leases kept and lost: the renewals that a port's lease accepts or ignores, FENCE and UNFENCE at the head of a command
queue, and the statements of chapter 7 about them. -/

namespace Sys2Proof.Machine

/-! ## Renewals -/

section Renewal
variable {s : State} {p : PortId} {number : BitVec 8}

/-- R123, R187: the number of a renewal is the low byte of the word written. -/
theorem exec_renewal (s : State) (p : PortId) (value : Word) :
    exec (.renewal p value) s = .next (s.takeRenewal p (value.extractLsb' 0 8)) := rfl

/-- R123, R124: the lease of an ATTACHED port accepts a renewal in FRESH and in OPEN when the number is the expected one. -/
theorem takeRenewal_of_expected {b : Binding} (hb : s.ports[p].state = .attached b)
    (hphase : b.lease.phase = .fresh ∨ b.lease.phase = .opened) (hnumber : number = b.lease.expected) :
    s.takeRenewal p number =
      s.modifyPort p fun r => { r with state := .attached { b with lease := r.params.renew b.lease } } := by
  unfold State.takeRenewal State.port
  rw [hb]
  rcases hphase with hphase | hphase
  all_goals
    simp only [hphase]
    exact if_pos hnumber

/-- R125: a port that is not ATTACHED ignores every renewal. -/
theorem takeRenewal_of_not_attached (h : ∀ b, s.ports[p].state ≠ .attached b) :
    s.takeRenewal p number = s.modifyPort p ({ · with renewIgnored := true }) := by
  unfold State.takeRenewal State.port
  cases hstate : s.ports[p].state with
  | attached b => exact absurd hstate (h b)
  | detached | stalled | fenced => rfl

end Renewal

/-- Settles O33, by whether the port is ATTACHED; only an ATTACHED port has a lease to renew. -/
theorem renewalAcceptedOrIgnored : Obligations.RenewalAcceptedOrIgnored := by
  intro s p value
  rw [exec_renewal]
  refine ⟨fun b hb hphase hnumber => ?_, fun hnot => ?_⟩
  · rw [takeRenewal_of_expected hb hphase hnumber]
    rfl
  · rw [takeRenewal_of_not_attached hnot]
    rfl

/-! ## FENCE and UNFENCE past the rights check -/

theorem isFenced_iff (st : PortState) : st.isFenced = true ↔ st = .fenced := by
  cases st <;> simp [PortState.isFenced]

/-- R145: the records that stay are those of class ACCESS and those of the other ports. -/
theorem retireLease_eq (s : State) (q : PortId) :
    s.retireLease q = { s with faults := s.faults.filter fun f => f.body.isAccess || f.port ≠ q } := by
  unfold State.retireLease
  simp only [Bool.not_and, Bool.not_not, decide_not]

section Fencing
variable {s : State} {t : Taken} {port : Byte} {q : PortId}

theorem fence_of_outOfRange (h : 6 ≤ port.toNat) : s.fence t port = s.complete t .badArgument := by
  unfold State.fence
  rw [portOf_eq_none h]

theorem fence_of_fenced (hq : port.toNat = q.val) (h : s.ports[q].state = .fenced) :
    s.fence t port = s.complete t .noEffect := by
  unfold State.fence
  rw [portOf_eq_some hq]
  exact if_pos ((isFenced_iff _).2 h)

theorem fence_of_not_fenced (hq : port.toNat = q.val) (h : s.ports[q].state ≠ .fenced) :
    s.fence t port = (s.enterFenced q none).complete t .ok := by
  unfold State.fence
  rw [portOf_eq_some hq]
  exact if_neg (mt (isFenced_iff _).1 h)

theorem unfence_of_outOfRange (h : 6 ≤ port.toNat) : s.unfence t port = s.complete t .badArgument := by
  unfold State.unfence
  rw [portOf_eq_none h]

theorem unfence_of_not_fenced (hq : port.toNat = q.val) (h : s.ports[q].state ≠ .fenced) :
    s.unfence t port = s.complete t .noEffect := by
  unfold State.unfence
  rw [portOf_eq_some hq]
  exact if_neg (mt (isFenced_iff _).1 h)

theorem unfence_of_fenced (hq : port.toNat = q.val) (h : s.ports[q].state = .fenced) :
    s.unfence t port = ((s.retireLease q).modifyPort q ({ · with state := .detached })).complete t .ok := by
  unfold State.unfence
  rw [portOf_eq_some hq]
  exact if_pos ((isFenced_iff _).2 h)

end Fencing

/-! ## The rows FENCE and UNFENCE -/

section Rows
variable {s : State} {p : PortId} {r : CommandRecord} {rest : List CommandRecord} {port : Byte}

theorem exec_fence_of_heads (hp : s.rights.holder = some p) (h : s.Heads p r (.fence port) rest) :
    exec (.fence p) s = .next ((s.taken p rest).fence (r.takenAt p) port) :=
  congrArg Host.Outcome.next <| take_of_heads_of_holder (carryOut := fun t u => u.fence t port) h hp fun _ _ => rfl

theorem exec_unfence_of_heads (hp : s.rights.holder = some p) (h : s.Heads p r (.unfence port) rest) :
    exec (.unfence p) s = .next ((s.taken p rest).unfence (r.takenAt p) port) :=
  congrArg Host.Outcome.next <| take_of_heads_of_holder (carryOut := fun t u => u.unfence t port) h hp fun _ _ => rfl

end Rows

/-- Settles O52, by the command, the range of its port number and whether that port is FENCED: the taking of the record changes
no port's state. -/
theorem fenceAndUnfence : Obligations.FenceAndUnfence := by
  intro s p r rest port q hp
  have hstate : (s.taken p rest).ports[q].state = s.ports[q].state := taken_state s p rest q
  refine ⟨fun h => ?fence, fun h => ?unfence⟩
  case fence =>
    rw [exec_fence_of_heads hp h, completed_eq_complete, completed_eq_complete, ← hstate]
    refine ⟨fun hr => by rw [fence_of_outOfRange hr], fun hq => ⟨fun hf => ?_, fun hf => ?_⟩⟩
    · rw [fence_of_fenced hq hf]
    · rw [fence_of_not_fenced hq hf]
      rfl
  case unfence =>
    rw [exec_unfence_of_heads hp h, completed_eq_complete, completed_eq_complete, ← hstate]
    refine ⟨fun hr => by rw [unfence_of_outOfRange hr], fun hq => ⟨fun hf => ?_, fun hf => ?_⟩⟩
    · rw [unfence_of_not_fenced hq hf]
    · rw [unfence_of_fenced hq hf, retireLease_eq]
      rfl

end Sys2Proof.Machine
end

section
/-! Fault records: the number and the flag that a record joining the fault queue brings, READ_FAULT at the head of a command
queue, and the statements of chapter 8 about them. -/

namespace Sys2Proof.Machine

/-! ## The number of a record that joins -/

section Sequence
variable {held : List (BitVec 16)} {n : BitVec 16}

/-- The search (R140) stops at the first free number within reach of its fuel. -/
theorem freeSequence_eq_add {fuel d : Nat} (hd : d ≤ fuel) (htaken : ∀ i < d, n + BitVec.ofNat 16 i ∈ held)
    (hfree : n + BitVec.ofNat 16 d ∉ held) : freeSequence held fuel n = n + BitVec.ofNat 16 d := by
  induction fuel generalizing n d with
  | zero =>
    obtain rfl : d = 0 := by omega
    exact (BitVec.add_zero n).symm
  | succ fuel ih =>
    rw [freeSequence]
    cases d with
    | zero =>
      rw [BitVec.add_zero] at hfree ⊢
      exact if_neg hfree
    | succ d =>
      have hshift : ∀ i, n + 1 + BitVec.ofNat 16 i = n + BitVec.ofNat 16 (i + 1) := fun i => by
        rw [Nat.add_comm i 1, BitVec.ofNat_add, BitVec.add_assoc]
        rfl
      have hn : n ∈ held := by simpa using htaken 0 d.succ_pos
      rw [if_pos hn, ← hshift]
      refine ih (by omega) (fun i hi => ?_) (by rwa [hshift])
      rw [hshift]
      exact htaken (i + 1) (by omega)

/-- Numbers counted on from one number differ until the count has gone all the way round. -/
theorem add_ofNat_inj {i j : Nat} (hi : i < 65536) (hj : j < 65536)
    (h : n + BitVec.ofNat 16 i = n + BitVec.ofNat 16 j) : i = j := by
  have := congrArg BitVec.toNat ((BitVec.add_right_inj n).1 h)
  rwa [BitVec.toNat_ofNat, BitVec.toNat_ofNat, Nat.mod_eq_of_lt hi, Nat.mod_eq_of_lt hj] at this

/-- Of one number more than are held, not every one is held. -/
theorem exists_add_notMem (h : held.length < 65536) (n : BitVec 16) :
    ∃ d, d ≤ held.length ∧ n + BitVec.ofNat 16 d ∉ held := by
  by_contra! hall
  have hle : (Finset.range (held.length + 1)).card ≤ held.toFinset.card := by
    refine Finset.card_le_card_of_injOn (n + BitVec.ofNat 16 ·) (fun i hi => ?_) fun i hi j hj => ?_
    · rw [Finset.mem_coe, Finset.mem_range] at hi
      exact List.mem_toFinset.2 (hall i (by omega))
    · rw [Finset.mem_coe, Finset.mem_range] at hi hj
      exact add_ofNat_inj (by omega) (by omega)
  rw [Finset.card_range] at hle
  have := held.toFinset_card_le
  omega

/-- R140: the number found is the first from the counter on, passing from 65535 to 0, that is not held. -/
theorem freeSequence_spec (h : held.length < 65536) (n : BitVec 16) :
    ∃ d ≤ held.length, (∀ i < d, n + BitVec.ofNat 16 i ∈ held) ∧ n + BitVec.ofNat 16 d ∉ held ∧
      freeSequence held held.length n = n + BitVec.ofNat 16 d := by
  have hex := exists_add_notMem h n
  obtain ⟨hle, hfree⟩ := Nat.find_spec hex
  have htaken : ∀ i < Nat.find hex, n + BitVec.ofNat 16 i ∈ held := fun i hi =>
    not_not.1 fun hno => Nat.find_min hex hi ⟨by omega, hno⟩
  exact ⟨_, hle, htaken, hfree, freeSequence_eq_add hle htaken hfree⟩

end Sequence

/-- R140: the next number, over the records of the fault queue. -/
theorem nextSequence_spec (s : State) (h : s.faults.length < 65536) :
    ∃ d ≤ s.faults.length, (∀ i < d, ∃ f ∈ s.faults, f.seq = s.seqCounter + BitVec.ofNat 16 i) ∧
      (∀ f ∈ s.faults, f.seq ≠ s.seqCounter + BitVec.ofNat 16 d) ∧
      s.nextSequence = s.seqCounter + BitVec.ofNat 16 d := by
  have hspec := freeSequence_spec (held := s.faults.map (·.seq)) (by rwa [List.length_map]) s.seqCounter
  rw [List.length_map] at hspec
  obtain ⟨d, hd, htaken, hfree, hnext⟩ := hspec
  exact ⟨d, hd, fun i hi => List.mem_map.1 (htaken i hi), fun f hf he => hfree (List.mem_map.2 ⟨f, hf, he⟩), hnext⟩

/-! ## The flag of the supervisor -/

theorem raiseSupervisor_of_supervisor {s : State} {q : PortId} {o : Origin} (f : Flag)
    (h : s.rights.supervisor = some (q, o)) : s.raiseSupervisor f = s.modifyPort q (·.raise f) := by
  unfold State.raiseSupervisor Holdings.holder
  rw [h]
  rfl

theorem raiseSupervisor_of_vacant {s : State} (f : Flag) (h : s.rights.supervisor = none) : s.raiseSupervisor f = s := by
  unfold State.raiseSupervisor Holdings.holder
  rw [h]
  rfl

/-- Settles O28: at most 12 numbers are held, so the search over as many finds the first free one. -/
theorem recordsNumberedFromCounter : Obligations.RecordsNumberedFromCounter := by
  refine ⟨fun s p body hlen => ?_, fun s => ⟨fun q o h => ?_, fun h => ?_⟩⟩
  · obtain ⟨d, hd, htaken, hfree, hnext⟩ := nextSequence_spec s (by omega)
    refine ⟨d, by omega, htaken, hfree, hnext, ?_⟩
    rw [State.joinFault, hnext, BitVec.ofNat_add, ← BitVec.add_assoc]
    rfl
  · rw [raiseSupervisor_of_supervisor .fault h, raiseSupervisor_of_supervisor .autoResolved h]
    exact ⟨rfl, rfl⟩
  · exact ⟨raiseSupervisor_of_vacant .fault h, raiseSupervisor_of_vacant .autoResolved h⟩

/-! ## READ_FAULT -/

/-- R159: a supervisor-only command at the head of any other port's queue completes NOT_SUPERVISOR. -/
theorem take_of_heads_of_not_holder {s : State} {p : PortId} {r : CommandRecord} {c : Command} {rest : List CommandRecord}
    {body : Taken → Command → State → Option State} {carryOut : Taken → State → State} (h : s.Heads p r c rest)
    (hp : s.rights.holder ≠ some p) (hb : ∀ t u, body t c u = some (u.supervisorOnly t (carryOut t))) :
    s.take p body = s.completed p r rest .notSupervisor := by
  refine take_of_heads h _ ?_
  rw [hb, supervisorOnly_eq, if_neg (by simpa using hp)]
  rfl

section ReadFault
variable {s : State} {p : PortId} {r : CommandRecord} {rest : List CommandRecord} {t : Taken} {k : Byte}

theorem readFault_of_outOfRange (h : 12 ≤ k.toNat) : s.readFault t k = s.complete t .badArgument :=
  if_neg (Nat.not_lt.2 h)

theorem readFault_of_inRange (h : k.toNat < 12) :
    s.readFault t k = s.complete t .ok (some (.fault s.faults[k.toNat]?)) := if_pos h

theorem exec_readFault_of_heads (hp : s.rights.holder = some p) (h : s.Heads p r (.readFault k) rest) :
    exec (.readFault p) s = .next ((s.taken p rest).readFault (r.takenAt p) k) :=
  congrArg Host.Outcome.next <| take_of_heads_of_holder (carryOut := fun t u => u.readFault t k) h hp fun _ _ => rfl

theorem exec_readFault_of_not_holder (hp : s.rights.holder ≠ some p) (h : s.Heads p r (.readFault k) rest) :
    exec (.readFault p) s = .next (s.completed p r rest .notSupervisor) :=
  congrArg Host.Outcome.next <| take_of_heads_of_not_holder (carryOut := fun t u => u.readFault t k) h hp fun _ _ => rfl

/-- R146: the holder reads what stands at position `k`, and the taking of the record leaves the fault queue. -/
theorem exec_readFault_of_inRange (hp : s.rights.holder = some p) (h : s.Heads p r (.readFault k) rest) (hk : k.toNat < 12) :
    exec (.readFault p) s = .next (s.completed p r rest .ok (some (.fault s.faults[k.toNat]?))) := by
  rw [exec_readFault_of_heads hp h, readFault_of_inRange hk, taken_faults, completed_eq_complete]

end ReadFault

/-- Settles O54, by the rights of the port, the range of `k` and whether the queue holds more than `k` records. -/
theorem readFaultReturns : Obligations.ReadFaultReturns := by
  intro s p r rest k h
  refine ⟨fun hp => exec_readFault_of_not_holder hp h, fun hp hk => ?_,
    fun hp hk => ⟨fun older f younger hfaults hlen => ?_, fun hshort => ?_⟩⟩
  · rw [exec_readFault_of_heads hp h, readFault_of_outOfRange hk, completed_eq_complete]
  · have hf : s.faults[k.toNat]? = some f := by
      rw [hfaults, ← hlen, List.getElem?_append_right le_rfl, Nat.sub_self, List.getElem?_cons_zero]
    rw [exec_readFault_of_inRange hp h hk, hf]
  · rw [exec_readFault_of_inRange hp h hk, List.getElem?_eq_none hshort]

end Sys2Proof.Machine
end

section
/-! Supervisor rights: the tests of SET_STANDBY, HANDOVER, ACCEPT and CLAIM in their order and what each makes of the rights,
said once for each outcome, and the statements of chapter 9 about them. -/

namespace Sys2Proof.Machine

/-! ## SET_STANDBY past the rights check -/

/-- R162: what the port field of a SET_STANDBY names, as the statement says it. -/
theorem standbyOf_eq_some {port : Byte} {b : Option PortId}
    (h : port = 0xFF ∧ b = none ∨ ∃ q, port.toNat = q.val ∧ b = some q) : standbyOf port = some b := by
  rcases h with ⟨rfl, rfl⟩ | ⟨q, hq, rfl⟩
  · rfl
  · have hne : port ≠ 0xFF := by
      rintro rfl
      exact absurd (hq.symm ▸ q.isLt : (0xFF : Byte).toNat < 6) (by decide)
    rw [standbyOf, if_neg hne, portOf_eq_some hq]
    rfl

theorem standbyOf_eq_none {port : Byte} (h : 6 ≤ port.toNat) (hne : port ≠ 0xFF) : standbyOf port = none := by
  rw [standbyOf, if_neg hne, portOf_eq_none h]
  rfl

section SetStandby
variable {s : State} {t : Taken} {port : Byte} {b : Option PortId} {q : PortId}

theorem setStandby_of_outOfRange (h : standbyOf port = none) : s.setStandby t port = s.complete t .badArgument := by
  unfold State.setStandby
  rw [h]

theorem setStandby_of_holder (hb : standbyOf port = some (some q)) (hq : s.rights.holder = some q) :
    s.setStandby t port = s.complete t .badArgument := by
  unfold State.setStandby
  rw [hb]
  exact if_pos (isSupervisor_of_holder hq)

theorem setStandby_of_fenced (hb : standbyOf port = some (some q)) (hq : s.rights.holder ≠ some q)
    (hf : s.ports[q].state = .fenced) : s.setStandby t port = s.complete t .portBusy := by
  unfold State.setStandby
  rw [hb]
  refine (if_neg ?_).trans (if_pos ((isFenced_iff _).2 hf))
  exact Bool.eq_false_iff.1 (isSupervisor_of_not_holder hq)

/-- R162: a port that is neither the supervisor nor FENCED, or none, becomes the standby unless it is that already. -/
theorem setStandby_of_eligible (hb : standbyOf port = some b) (hsup : ∀ q, b = some q → s.rights.holder ≠ some q)
    (hfree : ∀ q, b = some q → s.ports[q].state ≠ .fenced) :
    s.setStandby t port =
      if b = s.rights.standby then s.complete t .noEffect
      else (s.rightsMoved { s.rights with standby := b }).complete t .ok := by
  rw [← moveRights_eq_rightsMoved]
  unfold State.setStandby
  rw [hb]
  cases b with
  | none => rfl
  | some q =>
    have hq : ¬ s.rights.isSupervisor q = true := Bool.eq_false_iff.1 (isSupervisor_of_not_holder (hsup q rfl))
    exact (if_neg hq).trans (if_neg (mt (isFenced_iff _).1 (hfree q rfl)))

end SetStandby

/-! ## HANDOVER past the rights check -/

section Handover
variable {s : State} {t : Taken} {port : Byte} {q : PortId}

theorem handover_of_outOfRange (h : 6 ≤ port.toNat) : s.handover t port = s.complete t .badArgument := by
  unfold State.handover
  rw [portOf_eq_none h]

theorem handover_of_holder_or_fenced (hq : port.toNat = q.val)
    (h : s.rights.holder = some q ∨ s.ports[q].state = .fenced) : s.handover t port = s.complete t .badArgument := by
  unfold State.handover
  rw [portOf_eq_some hq]
  exact if_pos (Bool.or_eq_true _ _ ▸ h.imp isSupervisor_of_holder (isFenced_iff _).2)

/-- R160: a port that is neither the supervisor nor FENCED becomes the OFFERED one unless it is that already. -/
theorem handover_of_eligible (hq : port.toNat = q.val) (hsup : s.rights.holder ≠ some q)
    (hfree : s.ports[q].state ≠ .fenced) :
    s.handover t port =
      if s.rights.offer = some q then s.complete t .noEffect
      else (s.rightsMoved { s.rights with offer := some q }).complete t .ok := by
  rw [← moveRights_eq_rightsMoved]
  unfold State.handover
  rw [portOf_eq_some hq]
  refine if_neg ?_
  rw [isSupervisor_of_not_holder hsup, Bool.false_or]
  exact mt (isFenced_iff _).1 hfree

end Handover

/-! ## ACCEPT and CLAIM -/

section Taking
variable {s : State} {t : Taken}

theorem accept_of_not_offered (h : s.rights.offer ≠ some t.port) : s.accept t = s.complete t .stale := if_neg h

theorem accept_of_offered (h : s.rights.offer = some t.port) :
    s.accept t =
      (s.rightsMoved
        { supervisor := some (t.port, .handover), standby := s.rights.standbyWithout t.port, offer := none }).complete
        t .ok := by
  rw [← moveRights_eq_rightsMoved]
  exact if_pos h

/-- R165: while rights are held, what a CLAIM completes with depends on their origin alone. -/
theorem claim_of_held {q : PortId} {o : Origin} (h : s.rights.supervisor = some (q, o)) :
    s.claim t = s.complete t (if o = .claim then .stale else .notSupervisor) := by
  unfold State.claim
  rw [h]
  exact (apply_ite (s.complete t) ..).symm

theorem isAttached_iff (st : PortState) : st.isAttached = true ↔ ∃ b, st = .attached b := by
  cases st <;> simp [PortState.isAttached]

theorem claim_of_attached (h : s.rights.supervisor = none) (hp : ∃ b, s.ports[t.port].state = .attached b) :
    s.claim t =
      (s.rightsMoved
        { s.rights with
          supervisor := some (t.port, .claim), standby := s.rights.standbyWithout t.port }).complete t .ok := by
  rw [← moveRights_eq_rightsMoved]
  unfold State.claim
  rw [h]
  exact if_pos ((isAttached_iff _).2 hp)

theorem claim_of_not_attached (h : s.rights.supervisor = none) (hp : ∀ b, s.ports[t.port].state ≠ .attached b) :
    s.claim t = s.complete t .portBusy := by
  unfold State.claim
  rw [h]
  exact if_neg (mt (isAttached_iff _).1 (not_exists.2 hp))

end Taking

/-! ## The four rows -/

section Rows
variable {s : State} {p : PortId} {r : CommandRecord} {rest : List CommandRecord} {port : Byte}

theorem exec_setStandby_of_heads (hp : s.rights.holder = some p) (h : s.Heads p r (.setStandby port) rest) :
    exec (.setStandby p) s = .next ((s.taken p rest).setStandby (r.takenAt p) port) :=
  congrArg Host.Outcome.next <| take_of_heads_of_holder (carryOut := fun t u => u.setStandby t port) h hp fun _ _ => rfl

theorem exec_handover_of_heads (hp : s.rights.holder = some p) (h : s.Heads p r (.handover port) rest) :
    exec (.handover p) s = .next ((s.taken p rest).handover (r.takenAt p) port) :=
  congrArg Host.Outcome.next <| take_of_heads_of_holder (carryOut := fun t u => u.handover t port) h hp fun _ _ => rfl

theorem exec_accept_of_heads (h : s.Heads p r .accept rest) :
    exec (.accept p) s = .next ((s.taken p rest).accept (r.takenAt p)) :=
  congrArg Host.Outcome.next <| take_of_heads h _ rfl

theorem exec_claim_of_heads (h : s.Heads p r .claim rest) :
    exec (.claim p) s = .next ((s.taken p rest).claim (r.takenAt p)) :=
  congrArg Host.Outcome.next <| take_of_heads h _ rfl

end Rows

/-- Settles O55, by the command and its tests in their order: the taking of the record changes neither the rights nor a port's
state. -/
theorem standbyAndHandover : Obligations.StandbyAndHandover := by
  intro s p r rest port hp
  have hstate : ∀ q : PortId, (s.taken p rest).ports[q].state = s.ports[q].state := taken_state s p rest
  have hother : ∀ {q : PortId}, q ≠ p → s.rights.holder ≠ some q := fun hne hq =>
    hne (Option.some.inj (hq.symm.trans hp))
  refine ⟨fun h => ?standby, fun h => ?offer⟩
  case standby =>
    rw [exec_setStandby_of_heads hp h]
    simp only [completed_eq_complete]
    refine ⟨fun hr hne => by rw [setStandby_of_outOfRange (standbyOf_eq_none hr hne)], fun b hnames => ?_⟩
    have hb := standbyOf_eq_some hnames
    refine ⟨?_, ?_, fun hself hfree => ?_⟩
    · rintro rfl
      rw [setStandby_of_holder (s := s.taken p rest) hb hp]
    · rintro ⟨q, rfl, hne, hf⟩
      rw [setStandby_of_fenced (s := s.taken p rest) hb (hother hne) ((hstate q).trans hf)]
    · rw [setStandby_of_eligible (s := s.taken p rest) hb (fun q hq => hother fun he => hself (he ▸ hq))
        fun q hq => hstate q ▸ hfree q hq]
      refine ⟨fun hsame => ?_, fun hnew => ?_⟩
      · rw [taken_rights, if_pos hsame]
      · rw [taken_rights, if_neg hnew]
        rfl
  case offer =>
    rw [exec_handover_of_heads hp h]
    simp only [completed_eq_complete]
    refine ⟨fun hr => by rw [handover_of_outOfRange hr], fun q hq => ⟨fun hbad => ?_, fun hne hfree => ?_⟩⟩
    · rw [handover_of_holder_or_fenced (s := s.taken p rest) hq
        (hbad.imp (fun he => hp.trans (congrArg some he.symm)) (hstate q).trans)]
    · rw [handover_of_eligible (s := s.taken p rest) hq (hother hne) (hstate q ▸ hfree)]
      refine ⟨fun hsame => ?_, fun hnew => ?_⟩
      · rw [taken_rights, if_pos hsame]
      · rw [taken_rights, if_neg hnew]
        rfl

/-- Settles O56, by the command: an ACCEPT turns on the offer alone, a CLAIM on whether rights are held and then on the state of
its port. -/
theorem acceptAndClaim : Obligations.AcceptAndClaim := by
  intro s p r rest
  have hstate : (s.taken p rest).ports[p].state = s.ports[p].state := taken_state s p rest p
  refine ⟨fun h => ?accept, fun h => ?claim⟩
  case accept =>
    rw [exec_accept_of_heads h, completed_eq_complete]
    refine ⟨fun hno => ?_, fun hoffer => ?_⟩
    · rw [accept_of_not_offered (s := s.taken p rest) (t := r.takenAt p) hno]
    · rw [accept_of_offered (s := s.taken p rest) (t := r.takenAt p) hoffer]
      rfl
  case claim =>
    rw [exec_claim_of_heads h]
    simp only [completed_eq_complete]
    rw [← hstate]
    refine ⟨fun q o hheld => ?_, fun hvacant => ⟨fun hno => ?_, fun hatt => ?_⟩⟩
    · rw [claim_of_held (s := s.taken p rest) hheld]
      exact ⟨fun ho => by rw [if_pos ho], fun ho => by rw [if_neg ho]⟩
    · rw [claim_of_not_attached (s := s.taken p rest) (t := r.takenAt p) hvacant hno]
    · rw [claim_of_attached (s := s.taken p rest) (t := r.takenAt p) hvacant hatt]
      rfl

end Sys2Proof.Machine
end

section
/-! The parameters a supervisor sets: the tests of SET_LEASE and of CONFIGURE in their order and what each makes of the state,
said once for each outcome, and the statement of chapter 10 about them. -/

namespace Sys2Proof.Machine

/-! ## Ranges -/

/-- R129: the codes 0, 1 and 2 name the fractions ZERO, QUARTER and HALF. -/
theorem fractionOf_eq_some {code : BitVec 2} {f : Fraction}
    (h : code = 0 ∧ f = .zero ∨ code = 1 ∧ f = .quarter ∨ code = 2 ∧ f = .half) : fractionOf code = some f := by
  rcases h with ⟨rfl, rfl⟩ | ⟨rfl, rfl⟩ | ⟨rfl, rfl⟩ <;> rfl

/-- R129: the code 3 alone names no fraction. -/
theorem fractionOf_eq_none_iff (code : BitVec 2) : fractionOf code = none ↔ code = 3 := by
  revert code
  decide

/-- R129: 16 bits hold no period above the longest, so the shortest alone bounds it. -/
theorem periodRange_iff (period : BitVec 16) :
    (Config.minPeriod ≤ period.toNat && period.toNat ≤ Config.maxPeriod) = true ↔ 64 ≤ period.toNat := by
  have hlt := period.isLt
  rw [Bool.and_eq_true, decide_eq_true_eq, decide_eq_true_eq, Config.minPeriod, Config.maxPeriod]
  omega

/-- R178: 16 bits hold no stall limit above the longest. -/
theorem configureRange_iff (memsize : BitVec 13) (limit : BitVec 16) :
    configureRange memsize.toNat limit.toNat = true ↔
      1 ≤ memsize.toNat ∧ memsize.toNat ≤ 4096 ∧ (limit.toNat = 0 ∨ 16 ≤ limit.toNat) := by
  have hlt := limit.isLt
  simp only [configureRange, Bool.and_eq_true, Bool.or_eq_true, decide_eq_true_eq]
  rw [Config.maxMemsize, Config.minStallLimit, Config.maxStallLimit]
  omega

theorem anyBound_iff (s : State) : s.anyBound = true ↔ ∃ q : PortId, s.ports[q].state.isBound = true := by
  simp [State.anyBound]

theorem anyBound_taken (s : State) (p : PortId) (rest : List CommandRecord) : (s.taken p rest).anyBound = s.anyBound :=
  congrArg (List.any _) <| funext fun q => congrArg PortState.isBound (taken_state s p rest q)

/-! ## SET_LEASE past the rights check -/

section SetLease
variable {s : State} {t : Taken} {port : Byte} {code : BitVec 2} {period : BitVec 16} {q : PortId} {f : Fraction}

/-- R129: past the two arguments that name something, the period is tested before the port's binding. -/
theorem setLease_of_named (hq : port.toNat = q.val) (hf : fractionOf code = some f) :
    s.setLease t port code period =
      if Config.minPeriod ≤ period.toNat && period.toNat ≤ Config.maxPeriod then
        if s.ports[q].state.isBound then s.complete t .portBusy
        else (s.modifyPort q ({ · with params := { period := period.toNat, fraction := f } })).complete t .ok
      else s.complete t .badArgument := by
  unfold State.setLease
  rw [portOf_eq_some hq, hf]
  rfl

theorem setLease_of_outOfRange (h : 6 ≤ port.toNat ∨ period.toNat < 64 ∨ code = 3) :
    s.setLease t port code period = s.complete t .badArgument := by
  by_cases hport : 6 ≤ port.toNat
  · unfold State.setLease
    rw [portOf_eq_none hport]
  cases hf : fractionOf code with
  | none =>
    unfold State.setLease
    rw [hf]
    cases portOf port <;> rfl
  | some f =>
    have hcode : code ≠ 3 := mt (fractionOf_eq_none_iff code).2 (hf ▸ Option.some_ne_none f)
    have hshort : period.toNat < 64 := (h.resolve_left hport).resolve_right hcode
    rw [setLease_of_named (q := ⟨port.toNat, Nat.not_le.1 hport⟩) rfl hf]
    exact if_neg (mt (periodRange_iff period).1 (Nat.not_le.2 hshort))

theorem setLease_of_bound (hq : port.toNat = q.val) (hf : fractionOf code = some f) (hperiod : 64 ≤ period.toNat)
    (h : s.ports[q].state.isBound = true) : s.setLease t port code period = s.complete t .portBusy := by
  rw [setLease_of_named hq hf, if_pos ((periodRange_iff period).2 hperiod), if_pos h]

theorem setLease_of_unbound (hq : port.toNat = q.val) (hf : fractionOf code = some f) (hperiod : 64 ≤ period.toNat)
    (h : s.ports[q].state.isBound = false) :
    s.setLease t port code period =
      (s.modifyPort q ({ · with params := { period := period.toNat, fraction := f } })).complete t .ok := by
  rw [setLease_of_named hq hf, if_pos ((periodRange_iff period).2 hperiod), if_neg (Bool.eq_false_iff.1 h)]

end SetLease

/-! ## CONFIGURE past the rights check -/

section Configure
variable {s : State} {t : Taken} {memsize : BitVec 13} {limit : BitVec 16}

theorem configure_of_outOfRange (h : ¬ configureRange memsize.toNat limit.toNat = true) :
    s.configure t memsize limit = s.complete t .badArgument := if_neg h

theorem configure_of_bound (h : configureRange memsize.toNat limit.toNat = true) (hb : s.anyBound = true) :
    s.configure t memsize limit = s.complete t .portBusy := (if_pos h).trans (if_pos hb)

theorem configure_of_unbound (h : configureRange memsize.toNat limit.toNat = true) (hb : ¬ s.anyBound = true) :
    s.configure t memsize limit =
      State.complete { s with memsize := memsize.toNat, stallLimit := limit.toNat } t .ok :=
  (if_pos h).trans (if_neg hb)

end Configure

/-! ## The rows SET_LEASE and CONFIGURE -/

section Rows
variable {s : State} {p : PortId} {r : CommandRecord} {rest : List CommandRecord}

theorem exec_setLease_of_heads {port : Byte} {code : BitVec 2} {period : BitVec 16} (hp : s.rights.holder = some p)
    (h : s.Heads p r (.setLease port code period) rest) :
    exec (.setLease p) s = .next ((s.taken p rest).setLease (r.takenAt p) port code period) :=
  congrArg Host.Outcome.next <|
    take_of_heads_of_holder (carryOut := fun t u => u.setLease t port code period) h hp fun _ _ => rfl

theorem exec_configure_of_heads {memsize : BitVec 13} {limit : BitVec 16} (hp : s.rights.holder = some p)
    (h : s.Heads p r (.configure memsize limit) rest) :
    exec (.configure p) s = .next ((s.taken p rest).configure (r.takenAt p) memsize limit) :=
  congrArg Host.Outcome.next <|
    take_of_heads_of_holder (carryOut := fun t u => u.configure t memsize limit) h hp fun _ _ => rfl

end Rows

/-- Settles O51, by the command: its range test comes first, then the test for a bound port, which the taking of the record does
not change. -/
theorem parametersSet : Obligations.ParametersSet := by
  intro s p r rest hp
  refine ⟨fun port code period h => ?lease, fun memsize limit h => ?configure⟩
  case lease =>
    rw [exec_setLease_of_heads hp h]
    simp only [completed_eq_complete]
    refine ⟨fun hbad => by rw [setLease_of_outOfRange hbad], fun q f hq hperiod hcode => ?_⟩
    have hf := fractionOf_eq_some hcode
    rw [← taken_state s p rest q]
    refine ⟨fun hbound => ?_, fun hfree => ?_⟩
    · rw [setLease_of_bound hq hf hperiod hbound]
    · rw [setLease_of_unbound hq hf hperiod hfree]
      rfl
  case configure =>
    rw [exec_configure_of_heads hp h]
    simp only [completed_eq_complete]
    refine ⟨fun hbad => ?_, fun hlow hhigh hlimit => ?_⟩
    · rw [configure_of_outOfRange]
      rw [configureRange_iff]
      omega
    have hrange := (configureRange_iff memsize limit).2 ⟨hlow, hhigh, hlimit⟩
    refine ⟨fun hbound => ?_, fun hfree => ?_⟩
    · rw [configure_of_bound hrange (anyBound_taken s p rest ▸ (anyBound_iff s).2 hbound)]
    · have hnone : ¬ (s.taken p rest).anyBound = true := by
        rw [anyBound_taken, anyBound_iff]
        simpa using hfree
      rw [configure_of_unbound hrange hnone]
      rfl

end Sys2Proof.Machine
end

section
/-! The port records apart from the control aperture: what the shared operations leave of the state, lease parameters and access
slots of every port, said once for each operation. -/

namespace Sys2Proof.Machine

/-! ## The body of a port record -/

/-- A port record with the words, queues and flags of its control aperture (chapter 10) at their reset values: what is left is
the port's state, its lease parameters, its access slots with their arrival order, and its request channel. -/
def PortRec.body (r : PortRec) : PortRec :=
  { PortRec.reset with
    state := r.state, params := r.params, slots := r.slots, arrival := r.arrival, requests := r.requests }

/-- The body of every port record. -/
def State.bodies (s : State) (q : PortId) : PortRec := s.ports[q].body

theorem PortRec.body_eq_iff (r r' : PortRec) :
    r'.body = r.body ↔
      r'.state = r.state ∧ r'.params = r.params ∧ r'.slots = r.slots ∧ r'.arrival = r.arrival ∧ r'.requests = r.requests := by
  simp [PortRec.body]

@[simp] theorem PortRec.raise_body (r : PortRec) (f : Flag) : (r.raise f).body = r.body := rfl

section Bodies
variable (s : State)

theorem bodies_modifyPort (p : PortId) (f : PortRec → PortRec) :
    (s.modifyPort p f).bodies = Function.update s.bodies p (f s.ports[p]).body := by
  funext q
  simp only [State.bodies, Fin.getElem_fin, State.ports_modifyPort, Function.update_apply, eq_comm (a := q)]
  split
  · rfl
  · rfl

/-- An update of one port that leaves its body leaves every body. -/
theorem bodies_modifyPort_of_body {p : PortId} {f : PortRec → PortRec} (h : (f s.ports[p]).body = s.ports[p].body) :
    (s.modifyPort p f).bodies = s.bodies := by
  rw [bodies_modifyPort, h]
  exact Function.update_eq_self p s.bodies

@[simp] theorem bodies_modifySlot (n : SlotId) (f : MapSlot → MapSlot) : (s.modifySlot n f).bodies = s.bodies := rfl

@[simp] theorem bodies_raise (p : PortId) (f : Flag) : (s.modifyPort p (·.raise f)).bodies = s.bodies :=
  bodies_modifyPort_of_body s rfl

@[simp] theorem bodies_join (p : PortId) (c : Completion) : (s.join p c).bodies = s.bodies :=
  bodies_modifyPort_of_body s rfl

@[simp] theorem bodies_complete (t : Taken) (x : Status) (r : Option Result) : (s.complete t x r).bodies = s.bodies :=
  bodies_join s t.port _

@[simp] theorem bodies_completeCommit (c : PendingCommit) (x : Status) (r : Option Result) :
    (s.completeCommit c x r).bodies = s.bodies := by
  unfold State.completeCommit
  split
  · exact bodies_complete ..
  · rfl

@[simp] theorem bodies_completeJob (j : Job) (x : Status) (done : Nat) : (s.completeJob j x done).bodies = s.bodies := by
  unfold State.completeJob
  split
  · exact bodies_complete ..
  · rfl

@[simp] theorem bodies_raiseSupervisor (f : Flag) : (s.raiseSupervisor f).bodies = s.bodies := by
  unfold State.raiseSupervisor
  split
  · exact bodies_raise ..
  · rfl

@[simp] theorem bodies_moveRights (h : Holdings) : (s.moveRights h).bodies = s.bodies := by
  funext q
  simp only [State.bodies, Fin.getElem_fin, State.ports_moveRights]
  split <;> rfl

@[simp] theorem bodies_joinFault (p : PortId) (x : FaultBody) : (s.joinFault p x).bodies = s.bodies :=
  bodies_raiseSupervisor ..

@[simp] theorem bodies_recordViolation (p : PortId) (held : Bool) (cause : Option LeaseKind) :
    (s.recordViolation p held cause).bodies = s.bodies := by
  cases cause with
  | none => rfl
  | some kind => exact bodies_joinFault ..

@[simp] theorem bodies_succession : s.succession.bodies = s.bodies := by
  unfold State.succession
  split
  · exact bodies_moveRights ..
  · split <;> exact bodies_moveRights ..

@[simp] theorem bodies_endRoles (p : PortId) : (s.endRoles p).bodies = s.bodies := by
  unfold State.endRoles
  split
  · exact bodies_succession s
  · exact bodies_moveRights ..

@[simp] theorem bodies_swapMark (n : SlotId) (c : PendingCommit) : (s.swapMark n c).bodies = s.bodies :=
  bodies_completeCommit ..

@[simp] theorem bodies_leaveWaiting (p : PortId) (n : SlotId) : (s.leaveWaiting p n).bodies = s.bodies := by
  unfold State.leaveWaiting
  split
  case h_2 | h_3 => rfl
  split
  · rfl
  split
  case isFalse => rfl
  split
  · exact bodies_swapMark ..
  · rfl

/-- The end of a binding changes the state of its port alone. -/
theorem bodies_detach (p : PortId) (st : PortState) :
    (s.detach p st).bodies = Function.update s.bodies p { s.bodies p with state := st } := by
  unfold State.detach
  split
  · rw [bodies_leaveWaiting]
    exact bodies_modifyPort s p ({ · with state := st })
  · exact bodies_modifyPort s p ({ · with state := st })

/-- R127: of the bodies the entry into FENCED changes the port's own state and access slots. -/
theorem bodies_enterFenced (p : PortId) (cause : Option LeaseKind) :
    (s.enterFenced p cause).bodies =
      Function.update s.bodies p { s.bodies p with state := .fenced, slots := s.ports[p].answerFenced.slots } := by
  unfold State.enterFenced
  rw [bodies_raise, bodies_recordViolation, bodies_endRoles, bodies_detach]
  have hanswer : ((s.modifyPort p (·.answerFenced)).retireAccess p).bodies =
      Function.update s.bodies p s.ports[p].answerFenced.body := bodies_modifyPort ..
  rw [hanswer, Function.update_idem, Function.update_self]
  rfl

theorem bodies_endStall {p : PortId} {b : Binding} {st : Stall} (f : AccessSlot → AccessSlot)
    (h : s.ports[p].state = .stalled b st) :
    (s.endStall p f).bodies =
      Function.update s.bodies p
        { s.bodies p with
          slots := s.ports[p].slots.set st.access (s.ports[p].slots[st.access].map f)
          state := .attached { b with lease := s.ports[p].params.restart b.lease } } := by
  unfold State.endStall State.port
  rw [h]
  exact bodies_modifyPort ..

theorem bodies_answerHead (p : PortId) (k : AccId) (a : Access) (kind : ResponseKind) :
    (s.answerHead p k a kind).bodies =
      Function.update s.bodies p
        { s.bodies p with
          slots := s.ports[p].slots.set k (some (AccessSlot.answer { access := a, state := .untranslated } kind)) } :=
  bodies_modifyPort ..

theorem bodies_issueAccess (p : PortId) (k : AccId) (a : Access) (n : SlotId) (frame : Frame) :
    (s.issueAccess p k a n frame).bodies =
      Function.update s.bodies p
        { s.bodies p with slots := s.ports[p].slots.set k (some { access := a, state := .issued n false }) } :=
  bodies_modifyPort s p fun r => { r with slots := r.slots.set k (some { access := a, state := .issued n false }) }

theorem bodies_stallPort (p : PortId) (k : AccId) (a : Access) (b : Binding) (kind : FaultKind) :
    (s.stallPort p k a b kind).bodies =
      Function.update s.bodies p ((s.bodies p).stallOn k a b s.nextSequence s.stallLimit) := by
  unfold State.stallPort
  rw [bodies_leaveWaiting, bodies_modifyPort, bodies_joinFault]
  have hbody : ((s.joinFault p (.access kind b.slot (accessPage a) a.kind a.tag)).ports[p]).body = s.bodies p :=
    congrFun (bodies_joinFault ..) p
  obtain ⟨hstate, hparams, hslots, harrival, hrequests⟩ := (PortRec.body_eq_iff _ _).1 hbody
  refine congrArg (Function.update s.bodies p) ?_
  exact (PortRec.body_eq_iff ((s.bodies p).stallOn k a b s.nextSequence s.stallLimit) _).2
    ⟨rfl, hparams, congrArg (·.set k.val (some { access := a, state := .stalled })) hslots, harrival, hrequests⟩

end Bodies

/-! ## States of ports -/

/-- The state of every port. -/
def State.states (s : State) (q : PortId) : PortState := (s.bodies q).state

theorem states_of_bodies {s t : State} (h : t.bodies = s.bodies) : t.states = s.states := by
  unfold State.states
  rw [h]

theorem states_of_update {s t : State} {p : PortId} {r : PortRec} (h : t.bodies = Function.update s.bodies p r) :
    t.states = Function.update s.states p r.state := by
  funext q
  simp only [State.states, h, Function.update_apply]
  split <;> rfl

/-- An update of the body of a port that leaves its state leaves every state. -/
theorem states_of_update_of_state {s t : State} {p : PortId} {r : PortRec} (h : t.bodies = Function.update s.bodies p r)
    (hr : r.state = s.ports[p].state) : t.states = s.states := by
  rw [states_of_update h, hr]
  exact Function.update_eq_self p s.states

theorem states_apply (s : State) (q : PortId) : s.states q = s.ports[q].state := rfl

end Sys2Proof.Machine
end

section
/-! The parts of a happening: every command is a chain of updates, each of which leads from a state between two rules of the manual
to another. A statement about every command is then proved part by part. -/

namespace Sys2Proof.Machine

/-! ## The parts -/

/-- `t` differs from `s` at most in the control apertures, the counters and the model's own records. -/
structure State.ControlOnly (s t : State) : Prop where
  slots : t.slots = s.slots
  bodies : t.bodies = s.bodies
  jobs : t.jobs = s.jobs
  mem : t.mem = s.mem
  faults : t.faults = s.faults
  rights : t.rights = s.rights
  memsize : t.memsize = s.memsize
  stallLimit : t.stallLimit = s.stallLimit

/-- The ROLE flags that are set in `s` are set in `t`. -/
def State.KeepsRoleFlags (s t : State) : Prop :=
  ∀ q : PortId, s.ports[q].flags.getLsbD 4 = true → t.ports[q].flags.getLsbD 4 = true

/-- The holdings that a command of chapter 9 can bring about: a new standby, an offer, its acceptance, a claim. -/
inductive State.NewRights (s : State) : Holdings → Prop
  | standby {b : Option PortId} (h : ∀ q, b = some q → s.rights.holder ≠ some q ∧ s.ports[q].state ≠ .fenced) :
      s.NewRights { s.rights with standby := b }
  | offer {p q : PortId} (hp : s.rights.holder = some p) (hq : s.rights.holder ≠ some q) (hf : s.ports[q].state ≠ .fenced) :
      s.NewRights { s.rights with offer := some q }
  | accept {p : PortId} (h : s.rights.offer = some p) :
      s.NewRights { supervisor := some (p, .handover), standby := s.rights.standbyWithout p, offer := none }
  | claim {p : PortId} {b : Binding} (h : s.rights.supervisor = none) (hp : s.ports[p].state = .attached b) :
      s.NewRights { s.rights with supervisor := some (p, .claim), standby := s.rights.standbyWithout p }

/-- R7: the map slot once an access translated through it is answered. -/
def MapSlot.lowered (m : MapSlot) : MapSlot := { m with inFlight := m.inFlight - 1 }

/-- R7, R83: what an answer makes of the map slot translated through: the in-flight count falls, and the swap follows where a
pending commit has then reached its boundary. -/
inductive MapSlot.AnsweredTo (m : MapSlot) : MapSlot → Prop
  | stays (h : ∀ c, m.condition = .sealed c → c.reached m.lowered.inFlight = false) : m.AnsweredTo m.lowered
  | swaps {c : PendingCommit} (h : m.condition = .sealed c) : m.AnsweredTo m.lowered.swapped

/-- R65 to R73: what the answer to a descriptor read makes of the load queue: the RUNNING job ends or presents its next read. An
answer while no read is OUTSTANDING changes nothing. -/
inductive AnsweredJobs : List Job → List Job → Prop
  | ended {j : Job} {rest : List Job} {done : Nat} {m : Bool} (h : j.state = .running done (.outstanding m)) :
      AnsweredJobs (j :: rest) (startHead rest)
  | next {j : Job} {rest : List Job} {done : Nat} {m : Bool} (h : j.state = .running done (.outstanding m))
      (hmore : done + 1 < j.count) : AnsweredJobs (j :: rest) ({ j with state := .running (done + 1) .requested } :: rest)
  | stays {s : State} (h : s.readOutstanding = false) : AnsweredJobs s.jobs s.jobs

/-- One part of a happening leads from `s` to `t`. Writes to staged images come about only when `E` holds, parts that can clear a
ROLE flag only when `C` does, and resets of the hub only when both do. -/
inductive Part (E C : Prop) : State → State → Prop
  | control {s t : State} (h : s.ControlOnly t) (hflags : C ∨ s.KeepsRoleFlags t) : Part E C s t
  | requested {s : State} (p : PortId) (x : HeldRequest) :
      Part E C s (s.modifyPort p fun r => PortRec.acceptHeld { r with requests := r.requests ++ [x] })
  | delivered {s : State} {p : PortId} {k : AccId} {rest : List AccId} {a : Access} {response : Response}
      {through : Option SlotId} (harrival : s.ports[p].arrival = k :: rest)
      (hslot : s.ports[p].slots[k] = some { access := a, state := .answered response through }) :
      Part E C s (s.modifyPort p fun r => PortRec.acceptHeld { r with slots := r.slots.set k none, arrival := rest })
  | headAnswered {s : State} {p : PortId} {k : AccId} {a : Access} {kind : ResponseKind}
      (hhead : s.ports[p].head? = some (k, a)) : Part E C s (s.answerHead p k a kind)
  | headIssued {s : State} {p : PortId} {k : AccId} {a : Access} {b : Binding} {frame : Frame}
      (hhead : s.ports[p].head? = some (k, a)) (hstate : s.ports[p].state = .attached b) :
      Part E C s (s.issueAccess p k a b.slot frame)
  | headStalled {s : State} {p : PortId} {k : AccId} {a : Access} {b : Binding} {kind : FaultKind}
      (hhead : s.ports[p].head? = some (k, a)) (hstate : s.ports[p].state = .attached b) :
      Part E C s (s.stallPort p k a b kind)
  | portGranted {s : State} {q : Fin 7} {p : PortId} {number : TxnId} (hnumber : s.mem.freeNumber = some number)
      (hlength : s.mem.entries.length < Config.transactionLimit) : Part E C s (s.grantPort q p number)
  | loadGranted {s : State} {q : Fin 7} {number : TxnId} (hnumber : s.mem.freeNumber = some number)
      (hlength : s.mem.entries.length < Config.transactionLimit) : Part E C s (s.grantLoad q number)
  | accessAnswered {s : State} {x : MemAnswer} {before after : List OutEntry} {e : OutEntry} {p : PortId} {k : AccId}
      {through : SlotId} {m : MapSlot} (h : s.Answers x before e after) (he : e.requester = .port p k through)
      (hm : s.slots[through].AnsweredTo m) :
      Part E C s
        ((State.modifyPort { s with mem := { s.mem with entries := before ++ after } } p
          (·.placeAnswer k x.outcome x.data)).modifySlot through fun _ => m)
  | loadAnswered {s : State} {x : MemAnswer} {before after : List OutEntry} {e : OutEntry} {jobs : List Job}
      (h : s.Answers x before e after) (he : e.requester = .loadEngine) (hjobs : AnsweredJobs s.jobs jobs) :
      Part E C s { s with mem := { s.mem with entries := before ++ after }, jobs := jobs }
  | leaseCounted {s : State} {p : PortId} {b : Binding} (hstate : s.ports[p].state = .attached b)
      (hmore : b.lease.remaining - 1 ≠ 0) : Part E C s (s.modifyPort p (·.countTick b))
  | leaseRenewed {s : State} {p : PortId} {b : Binding} (hstate : s.ports[p].state = .attached b) :
      Part E C s
        (s.modifyPort p fun r => { r with state := .attached { b with lease := r.params.renew b.lease } })
  | timerLowered {s : State} {p : PortId} {b : Binding} {st : Stall} {n : Nat} (hstate : s.ports[p].state = .stalled b st)
      (htimer : st.timer = some n) (hmore : n - 1 ≠ 0) :
      Part E C s (s.modifyPort p ({ · with state := .stalled b { st with timer := some (n - 1) } }))
  | fenced {s : State} {p : PortId} {cause : Option LeaseKind}
      (h : cause ≠ none → ∃ b, s.ports[p].state = .attached b) : Part E C s (s.enterFenced p cause)
  | stallEnded {s : State} {p : PortId} {b : Binding} {st : Stall} {f : AccessSlot → AccessSlot}
      (hstate : s.ports[p].state = .stalled b st)
      (hf : (f = ({ · with state := .untranslated })) ∨ ∃ kind, f = (·.answer kind)) : Part E C s (s.endStall p f)
  | edited {s : State} {n : SlotId} {staged : Image} {condition : Condition} (hE : E)
      (h : condition = .dirty ∨ condition = .clean ∧ staged = s.slots[n].live) :
      Part E C s (s.modifySlot n fun m => { m with staged := staged, condition := condition })
  | loadAccepted {s : State} {j : Job} (hslot : s.slots[j.slot].condition.isSealed = false)
      (hlength : s.jobs.length < Config.loadPlaces) (hj : j.Sound) (hqueued : j.state = .queued) :
      Part E C s { s with jobs := startHead (s.jobs ++ [j]) }
  | loadsAborted {s : State} (n : SlotId) : Part E C s { s with jobs := startHead (abortSweep n s.jobs).stay }
  | committed {s : State} {n : SlotId} {c : PendingCommit} (hdirty : s.slots[n].condition = .dirty)
      (hload : s.loadHeld n = false) (hreached : c.reached s.slots[n].inFlight = false)
      (hwaiting : ∀ waiting, c.boundary = .mark waiting → waiting = s.attachedTo n) :
      Part E C s (s.modifySlot n fun m => { m with condition := .sealed c })
  | swapped {s : State} {n : SlotId} (h : s.slots[n].condition ≠ .clean) : Part E C s (s.modifySlot n (·.swapped))
  | unsealed {s : State} {n : SlotId} {c : PendingCommit} (h : s.slots[n].condition = .sealed c) :
      Part E C s (s.modifySlot n fun m => { m with condition := .dirty })
  | bound {s : State} {q : PortId} {n : SlotId} (hstate : s.ports[q].state = .detached) :
      Part E C s
        ((s.modifyPort q fun r => { r with state := .attached { slot := n, lease := r.params.start } }).raiseBinders n)
  | rebound {s : State} {q : PortId} {b : Binding} {n : SlotId} (hstate : s.ports[q].state = .attached b)
      (hne : b.slot ≠ n) :
      Part E C s
        ((((s.modifyPort q ({ · with state := .attached { b with slot := n } })).lowerBinders b.slot).raiseBinders
          n).leaveWaiting q b.slot)
  | unbound {s : State} {q : PortId} {b : Binding} (hstate : s.ports[q].state = .attached b) :
      Part E C s (s.detach q .detached)
  | leaseParamsSet {s : State} {q : PortId} {l : LeaseParams} (hbound : s.ports[q].state.isBound = false)
      (hmin : Config.minPeriod ≤ l.period) (hmax : l.period ≤ Config.maxPeriod) :
      Part E C s (s.modifyPort q ({ · with params := l }))
  | unfenced {s : State} {q : PortId} (hstate : s.ports[q].state = .fenced) :
      Part E C s ((s.retireLease q).modifyPort q ({ · with state := .detached }))
  | rightsMoved {s : State} {h : Holdings} (hnew : s.NewRights h) : Part E C s (s.moveRights h)
  | waitingLeft {s : State} (p : PortId) (n : SlotId) : Part E C s (s.leaveWaiting p n)
  | configured {s : State} {memsize stallLimit : Nat} (hrange : configureRange memsize stallLimit = true)
      (hbound : s.anyBound = false) : Part E C s { s with memsize := memsize, stallLimit := stallLimit }
  | portReset {s t : State} {p : PortId} (hC : C) (h : exec (.portReset p) s = .next t) : Part E C s t
  | deviceReset {s : State} (hE : E) (hC : C) : Part E C s s.deviceReset.acceptAll
  | poweredUp {s : State} (hE : E) (hC : C) : Part E C s { State.reset with pending := s.pending }

/-- A happening, or what of it has come about: a chain of parts. -/
abbrev Parts (E C : Prop) : State → State → Prop := Relation.ReflTransGen (Part E C)

variable {E C : Prop} {s t u : State}

/-- What each part keeps, a chain of parts keeps. -/
theorem Parts.keep {P : State → Prop} (h : Parts E C s t) (hP : ∀ u v, Part E C u v → P u → P v) (hs : P s) : P t := by
  induction h with
  | refl => exact hs
  | tail _ hpart ih => exact hP _ _ hpart ih

theorem parts_of_part (h : Part E C s t) : Parts E C s t := .single h

/-! ## Parts in the control aperture -/

theorem controlOnly_modifyPort {p : PortId} {f : PortRec → PortRec} (h : (f s.ports[p]).body = s.ports[p].body) :
    s.ControlOnly (s.modifyPort p f) :=
  ⟨rfl, bodies_modifyPort_of_body s h, rfl, rfl, rfl, rfl, rfl, rfl⟩

theorem keepsRoleFlags_modifyPort {p : PortId} {f : PortRec → PortRec}
    (h : s.ports[p].flags.getLsbD 4 = true → (f s.ports[p]).flags.getLsbD 4 = true) :
    s.KeepsRoleFlags (s.modifyPort p f) := by
  intro q hq
  rw [Fin.getElem_fin, State.ports_modifyPort]
  split
  case isTrue e =>
    subst e
    exact h hq
  case isFalse => exact hq

theorem part_modifyPort {p : PortId} {f : PortRec → PortRec} (hbody : (f s.ports[p]).body = s.ports[p].body)
    (hflags : (f s.ports[p]).flags = s.ports[p].flags) : Part E C s (s.modifyPort p f) :=
  .control (controlOnly_modifyPort hbody) (.inr (keepsRoleFlags_modifyPort fun h => hflags ▸ h))

theorem raise_role_of_role (r : PortRec) (f : Flag) (h : r.flags.getLsbD 4 = true) :
    (r.raise f).flags.getLsbD 4 = true := by
  simp [PortRec.raise, h]

theorem part_raise (p : PortId) (f : Flag) : Part E C s (s.modifyPort p (·.raise f)) :=
  .control (controlOnly_modifyPort rfl) (.inr (keepsRoleFlags_modifyPort (raise_role_of_role _ f)))

theorem part_join (p : PortId) (c : Completion) : Part E C s (s.join p c) :=
  .control (controlOnly_modifyPort rfl)
    (.inr (keepsRoleFlags_modifyPort (f := fun r => PortRec.raise { r with completions := r.completions ++ [c] } .completion)
      (raise_role_of_role { s.ports[p] with completions := s.ports[p].completions ++ [c] } .completion)))

theorem parts_complete (h : Parts E C s t) (x : Taken) (status : Status) (result : Option Result) :
    Parts E C s (t.complete x status result) := h.tail (part_join ..)

theorem parts_completeCommit (h : Parts E C s t) (c : PendingCommit) (status : Status) (result : Option Result) :
    Parts E C s (t.completeCommit c status result) := by
  unfold State.completeCommit
  split
  · exact parts_complete h ..
  · exact h

theorem parts_completeJob (h : Parts E C s t) (j : Job) (status : Status) (done : Nat) :
    Parts E C s (t.completeJob j status done) := by
  unfold State.completeJob
  split
  · exact parts_complete h ..
  · exact h

theorem parts_raiseSupervisor (h : Parts E C s t) (f : Flag) : Parts E C s (t.raiseSupervisor f) := by
  unfold State.raiseSupervisor
  split
  · exact h.tail (part_raise ..)
  · exact h

/-! ## Translation -/

theorem parts_translateBound {p : PortId} {k : AccId} {a : Access} {b : Binding} (hhead : s.ports[p].head? = some (k, a))
    (hstate : s.ports[p].state = .attached b) : Parts E C s (s.translateBound p k a b) := by
  unfold State.translateBound
  split
  case isTrue => exact .refl
  split
  case isFalse => exact .single (.headAnswered hhead)
  split
  · exact .single (.headStalled hhead hstate)
  · exact .single (.headIssued hhead hstate)

theorem parts_translateHead (h : Parts E C s t) (p : PortId) : Parts E C s (t.translateHead p) := by
  refine h.trans ?_
  unfold State.translateHead
  split
  case h_1 => exact .refl
  case h_2 k a hhead =>
    split
    case h_1 | h_2 => exact .single (.headAnswered hhead)
    case h_3 => exact .refl
    case h_4 b hb => exact parts_translateBound hhead hb

theorem parts_release (h : Parts E C s t) (n : SlotId) (first : List PortId) : Parts E C s (t.release n first) := by
  unfold State.release
  generalize (portOrder first).filter (· ∈ t.attachedTo n) = ports
  induction ports generalizing t with
  | nil => exact h
  | cons p rest ih => exact ih (parts_translateHead h p)

theorem parts_translateReleased (h : Parts E C s t) (p : PortId) (c : Condition) :
    Parts E C s (t.translateReleased p c) := by
  unfold State.translateReleased
  split
  · exact parts_translateHead h p
  · exact h

/-! ## Boundaries -/

section Boundaries
variable {n : SlotId} {c : PendingCommit}

theorem modifySlot_modifySlot (s : State) (n : SlotId) (f g : MapSlot → MapSlot) :
    (s.modifySlot n f).modifySlot n g = s.modifySlot n fun m => g (f m) := by
  simp [State.modifySlot]

/-- A boundary that is not reached brings nothing. -/
theorem testBoundary_of_not_reached (first : List PortId)
    (h : ∀ c, s.slots[n].condition = .sealed c → c.reached s.slots[n].inFlight = false) : s.testBoundary n first = s := by
  unfold State.testBoundary
  split
  case h_1 c hc => exact if_neg (Bool.eq_false_iff.1 (h c hc))
  case h_2 | h_3 => rfl

/-- A boundary that is reached brings the swap, then the held head accesses and the completion. -/
theorem parts_testBoundary_of_reached (first : List PortId) (hc : s.slots[n].condition = .sealed c)
    (hreached : c.reached s.slots[n].inFlight = true) (h : Parts E C u (s.modifySlot n (·.swapped))) :
    Parts E C u (s.testBoundary n first) := by
  unfold State.testBoundary State.slot
  simp only [hc]
  rw [if_pos hreached]
  split
  · exact parts_completeCommit (parts_release h ..) ..
  · exact parts_completeCommit h ..

/-- R82: the sealing of a DIRTY slot, with its swap when the boundary is reached already. -/
theorem parts_seal (first : List PortId) (hdirty : s.slots[n].condition = .dirty) (hload : s.loadHeld n = false)
    (hwaiting : ∀ waiting, c.boundary = .mark waiting → waiting = s.attachedTo n) :
    Parts E C s ((s.modifySlot n fun m => { m with condition := .sealed c }).testBoundary n first) := by
  have hslot := State.slots_modifySlot_self s n fun m => { m with condition := .sealed c }
  cases hreached : c.reached s.slots[n].inFlight with
  | true =>
    refine parts_testBoundary_of_reached (c := c) first (by rw [Fin.getElem_fin, hslot])
      (by rw [Fin.getElem_fin, hslot]; exact hreached) ?_
    rw [modifySlot_modifySlot]
    exact .single (.swapped fun hclean => Condition.noConfusion (hclean.symm.trans hdirty))
  | false =>
    rw [testBoundary_of_not_reached]
    · exact .single (.committed hdirty hload hreached hwaiting)
    · intro d hd
      rw [Fin.getElem_fin, hslot] at hd ⊢
      obtain rfl := Condition.sealed.inj hd
      exact hreached

/-- R53, R83: memory's answer to an access, with what the boundary it may reach brings. -/
theorem parts_answerPort {x : MemAnswer} {before after : List OutEntry} {e : OutEntry} {p : PortId} {k : AccId}
    {through : SlotId} (first : List PortId) (h : s.Answers x before e after) (he : e.requester = .port p k through) :
    Parts E C s
      (State.answerPort { s with mem := { s.mem with entries := before ++ after } } p k through x.outcome x.data first) := by
  unfold State.answerPort State.lowerInFlight
  generalize hu : State.modifyPort { s with mem := { s.mem with entries := before ++ after } } p
    (·.placeAnswer k x.outcome x.data) = u
  have hslots : u.slots = s.slots := by rw [← hu]; rfl
  have hslot := State.slots_modifySlot_self u through MapSlot.lowered
  have hpart {m : MapSlot} (hm : s.slots[through].AnsweredTo m) : Parts E C s (u.modifySlot through fun _ => m) := by
    rw [← hu]
    exact .single (.accessAnswered h he hm)
  have hlowered : u.modifySlot through MapSlot.lowered = u.modifySlot through fun _ => s.slots[through].lowered := by
    unfold State.modifySlot
    rw [hslots]
  change Parts E C s ((u.modifySlot through MapSlot.lowered).testBoundary through first)
  by_cases hreached : ∃ c, s.slots[through].condition = .sealed c ∧ c.reached s.slots[through].lowered.inFlight = true
  · obtain ⟨c, hc, hr⟩ := hreached
    refine parts_testBoundary_of_reached (c := c) first (by rw [Fin.getElem_fin, hslot, hslots]; exact hc)
      (by rw [Fin.getElem_fin, hslot, hslots]; exact hr) ?_
    rw [hlowered, modifySlot_modifySlot]
    exact hpart (.swaps hc)
  · have hstays : ∀ c, s.slots[through].condition = .sealed c → c.reached s.slots[through].lowered.inFlight = false :=
      fun c hc => Bool.eq_false_iff.2 fun hr => hreached ⟨c, hc, hr⟩
    rw [testBoundary_of_not_reached, hlowered]
    · exact hpart (.stays hstays)
    · rw [Fin.getElem_fin, hslot, hslots]
      exact hstays

end Boundaries

end Sys2Proof.Machine
end

section
/-! Every command is a chain of parts. -/

namespace Sys2Proof.Machine

variable {E C : Prop} {s u : State} {t : Taken}

/-! ## The tick -/

theorem modifyPort_modifyPort (s : State) (p : PortId) (f g : PortRec → PortRec) :
    (s.modifyPort p f).modifyPort p g = s.modifyPort p fun r => g (f r) := by
  simp [State.modifyPort]

/-- R121, R122: the lease counts, and LEASE_WARN is set when the warning comes. -/
theorem countTick_eq (r : PortRec) (b : Binding) :
    r.countTick b =
      { (if (r.params.count b.lease).warned && !b.lease.warned then r.raise .leaseWarn else r) with
        state := .attached { b with lease := r.params.count b.lease } } := by
  unfold PortRec.countTick
  split <;> rfl

/-- What the lease of an ATTACHED port stands at does not matter to its entry into FENCED. -/
theorem enterFenced_of_attached {p : PortId} {b b' : Binding} (cause : Option LeaseKind)
    (hstate : s.ports[p].state = .attached b) (hslot : b'.slot = b.slot) :
    (s.modifyPort p ({ · with state := .attached b' })).enterFenced p cause = s.enterFenced p cause := by
  have hdetach : (((s.modifyPort p ({ · with state := .attached b' })).modifyPort p (·.answerFenced)).retireAccess p).detach p
      .fenced = ((s.modifyPort p (·.answerFenced)).retireAccess p).detach p .fenced := by
    rw [modifyPort_modifyPort, detach_of_bound (n := b.slot), detach_of_bound (n := b.slot)]
    · simp [State.modifyPort, State.retireAccess, PortRec.answerFenced, PortRec.mapSlots]
    · rw [Fin.getElem_fin, State.retireAccess_ports, State.ports_modifyPort_self]
      exact congrArg (·.boundSlot?) hstate
    · rw [Fin.getElem_fin, State.retireAccess_ports, State.ports_modifyPort_self]
      exact congrArg some hslot
  unfold State.enterFenced
  rw [hdetach]
  rfl

/-- R121, R126: the tick that takes the remaining ticks to 0 fences the port, with LEASE_WARN set first where the warning comes
at that very tick. -/
theorem enterFenced_countTick {p : PortId} {b : Binding} (cause : Option LeaseKind)
    (hstate : s.ports[p].state = .attached b) :
    (s.modifyPort p (·.countTick b)).enterFenced p cause =
      if (s.ports[p].params.count b.lease).warned && !b.lease.warned then
        (s.modifyPort p (·.raise .leaseWarn)).enterFenced p cause
      else s.enterFenced p cause := by
  have hcount : s.modifyPort p (·.countTick b) =
      (if (s.ports[p].params.count b.lease).warned && !b.lease.warned then s.modifyPort p (·.raise .leaseWarn)
        else s).modifyPort p ({ · with state := .attached { b with lease := s.ports[p].params.count b.lease } }) := by
    split
    case isTrue h =>
      rw [modifyPort_modifyPort]
      simp only [State.modifyPort, countTick_eq, h, if_true]
    case isFalse h =>
      simp only [State.modifyPort, countTick_eq, h, if_false, Bool.false_eq_true]
  rw [hcount]
  split
  · exact enterFenced_of_attached (b := b) cause (by rw [Fin.getElem_fin, State.ports_modifyPort_self]; exact hstate) rfl
  · exact enterFenced_of_attached cause hstate rfl

theorem parts_tickLease (p : PortId) : Parts E C s (s.tickLease p) := by
  unfold State.tickLease
  split
  case h_2 | h_3 | h_4 => exact .refl
  case h_1 b hb =>
    split
    case isFalse => exact .refl
    split
    case isFalse hmore => exact .single (.leaseCounted hb hmore)
    rw [enterFenced_countTick _ hb]
    split
    · refine (parts_of_part (part_raise p .leaseWarn)).tail (.fenced fun _ => ⟨b, ?_⟩)
      rw [Fin.getElem_fin, State.ports_modifyPort_self]
      exact hb
    · exact .single (.fenced fun _ => ⟨b, hb⟩)

theorem parts_endStall (p : PortId) {f : AccessSlot → AccessSlot}
    (hf : (f = ({ · with state := .untranslated })) ∨ ∃ kind, f = (·.answer kind)) : Parts E C s (s.endStall p f) := by
  cases hstate : s.ports[p].state with
  | stalled b st => exact .single (.stallEnded hstate hf)
  | detached | attached | fenced =>
    unfold State.endStall State.port
    rw [hstate]

theorem parts_expireTimer (p : PortId) : Parts E C s (s.expireTimer p) :=
  parts_translateHead (parts_raiseSupervisor (parts_endStall p (.inr ⟨_, rfl⟩)) _) p

theorem parts_tickTimer (p : PortId) : Parts E C s (s.tickTimer p) := by
  unfold State.tickTimer
  split
  case h_2 | h_3 | h_4 => exact .refl
  case h_1 b st hstate =>
    split
    case h_2 => exact .refl
    case h_1 n htimer =>
      split
      · exact parts_expireTimer p
      · next hmore => exact .single (.timerLowered hstate htimer hmore)

theorem part_tickStamp : Part E C s s.tickStamp :=
  .control ⟨rfl, rfl, rfl, rfl, rfl, rfl, rfl, rfl⟩ (.inr fun _ => id)

theorem parts_tickPart (part : TickPart) : Parts E C s (s.tickPart part) := by
  cases part with
  | stamp => exact .single part_tickStamp
  | lease p => exact parts_tickLease p
  | timer p => exact parts_tickTimer p

theorem parts_tick (order : List TickPart) (s : State) : Parts E C s (order.foldl State.tickPart s) := by
  induction order generalizing s with
  | nil => exact .refl
  | cons part rest ih => exact (parts_tickPart part).trans (ih _)

/-! ## The renewal and the aperture -/

theorem parts_takeRenewal (p : PortId) (number : BitVec 8) : Parts E C s (s.takeRenewal p number) := by
  have hignored : Parts E C s (s.modifyPort p ({ · with renewIgnored := true })) := .single (part_modifyPort rfl rfl)
  unfold State.takeRenewal
  split
  case h_2 | h_3 | h_4 => exact hignored
  case h_1 b hb =>
    have hfenced (kind : LeaseKind) : Parts E C s (s.enterFenced p (some kind)) := .single (.fenced fun _ => ⟨b, hb⟩)
    split
    case h_1 | h_2 =>
      split
      · exact .single (.leaseRenewed hb)
      · exact hfenced _
    case h_3 => exact hfenced _
    case h_4 => exact hignored

theorem part_post (p : PortId) : Part E C s (s.modifyPort p (·.post)) :=
  part_modifyPort (by unfold PortRec.post; split <;> rfl) (by unfold PortRec.post; split <;> rfl)

theorem part_pop (p : PortId) : Part E C s (s.modifyPort p (·.pop)) :=
  part_modifyPort (by unfold PortRec.pop; split <;> rfl) (by unfold PortRec.pop; split <;> rfl)

theorem part_writeFlags (hC : C) (p : PortId) (value : Word) : Part E C s (s.modifyPort p (·.writeFlags value)) :=
  .control (controlOnly_modifyPort rfl) (.inl hC)

theorem parts_apertureWrite (p : PortId) (addr : Nat) (whole : Bool) (value : Word) (hC : addr % 64 = 0x24 → C) :
    Parts E C s (s.apertureWrite p addr whole value) := by
  unfold State.apertureWrite
  split
  case isFalse => exact .refl
  split
  case h_1 | h_2 | h_3 | h_4 | h_8 | h_10 => exact .single (part_modifyPort rfl rfl)
  case h_5 => exact .single (part_post p)
  case h_6 => exact .single (part_pop p)
  case h_7 => exact parts_takeRenewal p _
  case h_9 h => exact .single (part_writeFlags (hC h) p value)
  case h_11 => exact .refl

/-! ## Memory -/

theorem answers_of_find {x : MemAnswer} {e : OutEntry} (hgen : x.generation = s.mem.generation)
    (h : s.mem.entries.find? (·.number = x.number) = some e) : ∃ before after, s.Answers x before e after := by
  obtain ⟨hnumber, before, after, hsplit, hbefore⟩ := List.find?_eq_some_iff_append.1 h
  exact ⟨before, after, hgen, hsplit, by simpa using hnumber, fun y hy => by simpa using hbefore y hy⟩

/-- An answer is ignored, or it answers an entry. -/
theorem memoryAnswer_cases (s : State) (x : MemAnswer) (first : List PortId) :
    s.memoryAnswer x first = s ∨ ∃ before e after, s.Answers x before e after := by
  by_cases hgen : x.generation = s.mem.generation
  · cases h : s.mem.entries.find? (·.number = x.number) with
    | none =>
      refine .inl (memoryAnswer_of_unmatched first (.inr fun e he => ?_))
      simpa using List.find?_eq_none.1 h e he
    | some e =>
      obtain ⟨before, after, hx⟩ := answers_of_find hgen h
      exact .inr ⟨before, e, after, hx⟩
  · exact .inl (memoryAnswer_of_unmatched first (.inl hgen))

theorem endRunning_eq {j : Job} {rest : List Job} (status : Status) (done : Nat) (h : s.jobs = j :: rest) :
    s.endRunning status done = State.completeJob { s with jobs := startHead rest } j status done := by
  unfold State.endRunning
  rw [h]

/-- What an answer makes of the load engine: the staged entry is written or kept, the load queue goes on, and the job that ends
completes. -/
theorem parts_answerLoad {x : MemAnswer} {before after : List OutEntry} {e : OutEntry} (hE : E)
    (h : s.Answers x before e after) (he : e.requester = .loadEngine) :
    Parts E C s (State.answerLoad { s with mem := { s.mem with entries := before ++ after } } x.outcome x.data) := by
  have hstays (hread : s.readOutstanding = false) :
      Parts E C s { s with mem := { s.mem with entries := before ++ after } } :=
    .single (.loadAnswered h he (.stays hread))
  have hends {j : Job} {rest : List Job} {done : Nat} {m : Bool} (hjobs : s.jobs = j :: rest)
      (hj : j.state = .running done (.outstanding m)) (status : Status) (d : Nat) :
      Parts E C s
        (State.endRunning { s with mem := { s.mem with entries := before ++ after } } status d) := by
    rw [endRunning_eq (s := { s with mem := { s.mem with entries := before ++ after } }) status d hjobs]
    refine parts_completeJob (.single ?_) ..
    exact .loadAnswered h he (by rw [hjobs]; exact .ended hj)
  unfold State.answerLoad
  split
  case h_1 hjobs =>
    replace hjobs : s.jobs = [] := hjobs
    exact hstays (by simp only [State.readOutstanding, hjobs])
  case h_2 j rest hjobs =>
    replace hjobs : s.jobs = j :: rest := hjobs
    split
    case h_1 done hj => exact hends hjobs hj ..
    case h_3 hj | h_4 hj => exact hstays (by simp only [State.readOutstanding, hjobs, hj])
    case h_2 done hj =>
      split
      case h_1 => exact hends hjobs hj ..
      case h_2 =>
        generalize descriptorOf (wordOfBytes x.data) = d
        split
        case h_1 => exact hends hjobs hj ..
        case h_2 =>
          have hpage {v : State} (hv : Parts E C s v) (hx : v.Answers x before e after) (hvj : v.jobs = j :: rest) :
              Parts E C s
                (State.pageDone { v with mem := { v.mem with entries := before ++ after } } j rest (done + 1)) := by
            unfold State.pageDone
            split
            case isTrue =>
              rw [endRunning_eq (s := { v with mem := { v.mem with entries := before ++ after } }) .ok (done + 1) hvj]
              refine parts_completeJob (hv.tail ?_) ..
              exact .loadAnswered hx he (by rw [hvj]; exact .ended hj)
            case isFalse hmore =>
              refine hv.tail (.loadAnswered hx he ?_)
              rw [hvj]
              exact .next hj (by omega)
          cases d with
          | keep | malformed => exact hpage .refl h hjobs
          | set frame rights =>
            have hedit : Part E C s (s.descriptorWrite j.slot (j.page done) (.set frame rights)) :=
              .edited (staged := s.slots[j.slot].staged.set (j.page done) { frame := frame, rights := rights }) hE (.inl rfl)
            exact hpage (.single hedit) h hjobs

theorem part_grantPort {q : Fin 7} {p : PortId} {number : TxnId} (hnumber : s.mem.freeNumber = some number)
    (hlength : s.mem.entries.length < Config.transactionLimit) : Part E C s (s.grantPort q p number) :=
  .portGranted hnumber hlength

/-! ## Commands -/

/-- The taking of a record, with what its row makes of the rest. -/
theorem parts_take {p : PortId} {body : Taken → Command → State → Option State}
    (h : ∀ t c u v, body t c u = some v → Parts E C u v) : Parts E C s (s.take p body) := by
  unfold State.take
  split
  case h_1 => exact .refl
  case h_2 r rest _ =>
    cases hbody : body { port := p, tag := r.tag, code := r.code } r.command
        (s.modifyPort p fun q => { q with commands := rest }) with
    | none => exact .refl
    | some v => exact (parts_of_part (part_modifyPort rfl rfl)).trans (h _ _ _ _ hbody)

theorem parts_supervisorOnly {carryOut : State → State} (h : s.rights.holder = some t.port → Parts E C s (carryOut s)) :
    Parts E C s (s.supervisorOnly t carryOut) := by
  rw [supervisorOnly_eq]
  split
  case isTrue hp => exact h hp
  case isFalse => exact parts_complete .refl ..

theorem parts_refused (status : Status) (result : Option Result) : Parts E C s (s.complete t status result) :=
  parts_complete .refl ..

theorem parts_unlessBusy {n : SlotId} {carryOut : State} (h : Parts E C s carryOut) :
    Parts E C s (s.unlessBusy t n carryOut) := by
  unfold State.unlessBusy
  split
  · exact parts_refused ..
  · exact h

theorem parts_putEntry (hE : E) (slot page : Byte) (frame : Frame) (rights : BitVec 2) :
    Parts E C s (s.putEntry t slot page frame rights) := by
  unfold State.putEntry
  split
  case h_2 => exact parts_refused ..
  case h_1 n g _ _ =>
    exact parts_unlessBusy (parts_complete (.single (.edited
      (staged := s.slots[n].staged.set (pageOf page) { frame := frame, rights := g }) hE (.inl rfl))) ..)

theorem parts_discard (hE : E) (slot : Byte) : Parts E C s (s.discard t slot) := by
  unfold State.discard
  split
  case h_2 => exact parts_refused ..
  case h_1 n _ =>
    refine parts_unlessBusy ?_
    split
    · exact parts_refused ..
    · exact parts_complete (.single (.edited (staged := s.slots[n].live) hE (.inr ⟨rfl, rfl⟩))) ..

theorem parts_clear (hE : E) (slot : Byte) : Parts E C s (s.clear t slot) := by
  unfold State.clear
  split
  case h_2 => exact parts_refused ..
  case h_1 n _ => exact parts_unlessBusy (parts_complete (.single (.edited (staged := Image.empty) hE (.inl rfl))) ..)

theorem parts_checkPage (slot page : Byte) : Parts E C s (s.checkPage t slot page) := by
  unfold State.checkPage
  split
  case h_2 => exact parts_refused ..
  case h_1 => split <;> exact parts_refused ..

/-- R62, R63: an accepted LOAD makes a sound job. -/
theorem acceptedJob_sound {n : SlotId} {first : Byte} {count : BitVec 9} {addr : BitVec 24} {memsize : Nat}
    (h : loadRange memsize first.toNat count.toNat addr.toNat = true) : (acceptedJob t n first count addr).Sound := by
  simp only [loadRange, Bool.and_eq_true, decide_eq_true_eq] at h
  obtain ⟨⟨⟨⟨hone, -⟩, hpages⟩, -⟩, -⟩ := h
  exact ⟨hone, hpages, trivial⟩

theorem parts_load (slot first : Byte) (count : BitVec 9) (addr : BitVec 24) :
    Parts E C s (s.load t slot first count addr) := by
  unfold State.load
  split
  case h_1 => exact parts_refused ..
  case h_2 n _ =>
    split
    case isFalse => exact parts_refused ..
    case isTrue hrange =>
      split
      case isTrue => exact parts_refused ..
      case isFalse hsealed =>
        split
        case isTrue => exact parts_refused ..
        case isFalse hroom =>
          exact .single (.loadAccepted (j := acceptedJob t n first count addr) (Bool.eq_false_iff.2 hsealed)
            (Nat.not_le.1 hroom) (acceptedJob_sound hrange) rfl)

theorem parts_completeAborted (jobs : List (Job × Nat)) (h : Parts E C s u) : Parts E C s (u.completeAborted jobs) := by
  induction jobs generalizing u with
  | nil => exact h
  | cons j rest ih => exact ih (parts_completeJob h ..)

theorem parts_abortLoad (slot : Byte) : Parts E C s (s.abortLoad t slot) := by
  unfold State.abortLoad
  split
  case h_1 => exact parts_refused ..
  case h_2 n _ =>
    split
    · exact parts_refused ..
    · exact parts_complete (parts_completeAborted _ (.single (.loadsAborted n))) ..

theorem boundaryOf_waiting {n : SlotId} {code : BitVec 2} {b : Boundary} (h : s.boundaryOf n code = some b)
    (waiting : List PortId) (hb : b = .mark waiting) : waiting = s.attachedTo n := by
  unfold State.boundaryOf at h
  subst hb
  split at h
  all_goals cases h
  rfl

theorem parts_commit (slot : Byte) (boundary : BitVec 2) (first : List PortId) :
    Parts E C s (s.commit t slot boundary first) := by
  unfold State.commit
  split
  case h_1 => exact parts_refused ..
  case h_2 n _ =>
    split
    case h_1 => exact parts_refused ..
    case h_2 b hb =>
      split
      case h_1 => exact parts_refused ..
      case h_2 => split <;> exact parts_refused ..
      case h_3 hdirty =>
        split
        case isTrue => exact parts_refused ..
        case isFalse hload => exact parts_seal first hdirty (Bool.eq_false_iff.2 hload) (boundaryOf_waiting hb)

theorem parts_unseal {n : SlotId} {c : PendingCommit} (hc : s.slots[n].condition = .sealed c) (first : List PortId) :
    Parts E C s (s.unseal n c first) := by
  have hdirty : Parts E C s (s.modifySlot n fun m => { m with condition := .dirty }) := .single (.unsealed hc)
  unfold State.unseal
  split
  · exact parts_completeCommit (parts_release hdirty ..) ..
  · exact parts_completeCommit hdirty ..

theorem parts_cancelCommit (slot : Byte) (first : List PortId) : Parts E C s (s.cancelCommit t slot first) := by
  unfold State.cancelCommit
  split
  case h_1 => exact parts_refused ..
  case h_2 n _ =>
    split
    case h_1 c hc => exact parts_complete (parts_unseal hc first) ..
    case h_2 | h_3 => exact parts_refused ..

theorem parts_sync : Parts E C s (s.sync t) := by
  unfold State.sync
  split
  case h_1 => exact parts_refused ..
  case h_2 =>
    split
    · exact parts_complete (.single (.waitingLeft ..)) ..
    · exact parts_refused ..

theorem parts_bind (port slot : Byte) : Parts E C s (s.bind t port slot) := by
  unfold State.bind
  split
  case h_2 => exact parts_refused ..
  case h_1 q n _ _ =>
    split
    case h_1 | h_2 => exact parts_refused ..
    case h_3 hstate => exact parts_complete (.single (.bound hstate)) ..
    case h_4 b hstate =>
      split
      · exact parts_refused ..
      · next hne => exact parts_complete (parts_translateReleased (.single (.rebound hstate hne)) ..) ..

theorem parts_unbind (port : Byte) : Parts E C s (s.unbind t port) := by
  unfold State.unbind
  split
  case h_1 => exact parts_refused ..
  case h_2 q _ =>
    split
    case h_1 | h_2 | h_3 => exact parts_refused ..
    case h_4 b hstate => exact parts_complete (.single (.unbound hstate)) ..

theorem parts_setLease (port : Byte) (fraction : BitVec 2) (period : BitVec 16) :
    Parts E C s (s.setLease t port fraction period) := by
  unfold State.setLease
  split
  case h_2 => exact parts_refused ..
  case h_1 q f _ _ =>
    split
    case isFalse => exact parts_refused ..
    case isTrue hrange =>
      rw [Bool.and_eq_true, decide_eq_true_eq, decide_eq_true_eq] at hrange
      split
      · exact parts_refused ..
      · next hbound =>
        exact parts_complete (.single (.leaseParamsSet (l := { period := period.toNat, fraction := f })
          (Bool.eq_false_iff.2 hbound) hrange.1 hrange.2)) ..

theorem parts_fence (port : Byte) : Parts E C s (s.fence t port) := by
  unfold State.fence
  split
  case h_1 => exact parts_refused ..
  case h_2 =>
    split
    · exact parts_refused ..
    · exact parts_complete (.single (.fenced fun h => absurd rfl h)) ..

theorem parts_unfence (port : Byte) : Parts E C s (s.unfence t port) := by
  unfold State.unfence
  split
  case h_1 => exact parts_refused ..
  case h_2 =>
    split
    · next hf => exact parts_complete (.single (.unfenced ((isFenced_iff _).1 hf))) ..
    · exact parts_refused ..

theorem parts_resolve (seq : BitVec 16) (code : BitVec 2) (a : Action) {act : State → PortId → State}
    (h : ∀ q, Parts E C s (act s q)) : Parts E C s (s.resolve t seq code a act) := by
  unfold State.resolve
  split
  case h_1 => exact parts_refused ..
  case h_2 =>
    split
    · exact parts_refused ..
    · exact parts_complete (h _) ..

theorem parts_readFault (k : Byte) : Parts E C s (s.readFault t k) := by
  unfold State.readFault
  split <;> exact parts_refused ..

theorem parts_setStandby (port : Byte) : Parts E C s (s.setStandby t port) := by
  unfold State.setStandby
  split
  case h_1 => exact parts_refused ..
  case h_2 b _ =>
    split
    case isTrue => exact parts_refused ..
    case isFalse hsup =>
      split
      case isTrue => exact parts_refused ..
      case isFalse hfenced =>
        split
        case isTrue => exact parts_refused ..
        case isFalse =>
          refine parts_complete (.single (.rightsMoved (.standby fun q hq => ⟨fun hold => hsup ?_, fun hf => hfenced ?_⟩))) ..
          · rw [hq]
            exact isSupervisor_of_holder hold
          · rw [hq]
            exact (isFenced_iff _).2 hf

theorem parts_handover (port : Byte) (hp : s.rights.holder = some t.port) : Parts E C s (s.handover t port) := by
  unfold State.handover
  split
  case h_1 => exact parts_refused ..
  case h_2 q _ =>
    split
    case isTrue => exact parts_refused ..
    case isFalse hbad =>
      rw [Bool.or_eq_true, not_or] at hbad
      split
      · exact parts_refused ..
      · exact parts_complete (.single (.rightsMoved (.offer hp (fun h => hbad.1 (isSupervisor_of_holder h))
          fun hf => hbad.2 ((isFenced_iff _).2 hf)))) ..

theorem parts_accept : Parts E C s (s.accept t) := by
  unfold State.accept
  split
  · next h => exact parts_complete (.single (.rightsMoved (.accept h))) ..
  · exact parts_refused ..

theorem parts_claim : Parts E C s (s.claim t) := by
  unfold State.claim
  split
  case h_1 => split <;> exact parts_refused ..
  case h_2 hvacant =>
    split
    case isTrue hatt =>
      obtain ⟨b, hb⟩ := (isAttached_iff _).1 hatt
      exact parts_complete (.single (.rightsMoved (.claim hvacant hb))) ..
    case isFalse => exact parts_refused ..

theorem parts_configure (memsize : BitVec 13) (limit : BitVec 16) : Parts E C s (s.configure t memsize limit) := by
  unfold State.configure
  split
  case isFalse => exact parts_refused ..
  case isTrue hrange =>
    split
    · exact parts_refused ..
    · next hbound => exact parts_complete (.single (.configured hrange (Bool.eq_false_iff.2 hbound))) ..

/-! ## Every command -/

/-- Commands that can write to a staged image: the edits, the answers to descriptor reads, and the resets of the hub. -/
def MayEdit (i : Instr) (s : State) : Prop :=
  match i with
  | .putEntry _ | .discard _ | .clear _ | .deviceReset | .powerUp => True
  | .memoryAnswerAccess x _ | .memoryAnswerDescriptor x _ =>
    ∃ before e after, s.Answers x before e after ∧ e.requester = .loadEngine
  | _ => False

/-- Commands that can clear a ROLE flag: writes to the flag word and the resets. -/
def MayClearRole (i : Instr) : Prop :=
  match i with
  | .flagWordWrite _ _ | .portReset _ | .deviceReset | .powerUp => True
  | .apertureWrite _ addr _ _ => addr % 64 = 0x24
  | _ => False

theorem parts_memoryAnswer (x : MemAnswer) (first : List PortId)
    (hE : (∃ before e after, s.Answers x before e after ∧ e.requester = .loadEngine) → E) :
    Parts E C s (s.memoryAnswer x first) := by
  obtain h | ⟨before, e, after, h⟩ := memoryAnswer_cases s x first
  · rw [h]
  · rw [memoryAnswer_of_answers h]
    cases he : e.requester with
    | port p k through => exact parts_answerPort first h he
    | loadEngine => exact parts_answerLoad (hE ⟨before, e, after, h, he⟩) h he

theorem parts_deliver {p : PortId} {v : State} (h : execDeliverResponse p s = .next v) : Parts E C s v := by
  unfold execDeliverResponse at h
  split at h
  case h_1 =>
    cases h
    exact .refl
  case h_2 k rest harrival =>
    split at h
    case h_2 =>
      cases h
      exact .refl
    case h_1 a response through hslot =>
      cases h
      have hsent : Part E C s { s with delivered := s.delivered ++ [(p, response)] } :=
        .control ⟨rfl, rfl, rfl, rfl, rfl, rfl, rfl, rfl⟩ (.inr fun _ => id)
      exact (parts_of_part hsent).tail (.delivered harrival hslot)

theorem parts_grant {able : Bool} {v : State} (h : execGrant able s = .next v) : Parts E C s v := by
  unfold execGrant at h
  split at h
  case isFalse =>
    cases h
    exact .refl
  case isTrue hroom =>
    rw [Bool.and_eq_true, decide_eq_true_eq] at hroom
    split at h
    case h_2 =>
      cases h
      exact .refl
    case h_1 q number _ hnumber =>
      split at h
      all_goals cases h
      · exact .single (.portGranted hnumber hroom.2)
      · exact .single (.loadGranted hnumber hroom.2)

theorem parts_leaseExpiry {p : PortId} {v : State} (h : execLeaseExpiry p s = .next v) : Parts E C s v := by
  unfold execLeaseExpiry at h
  split at h
  case h_1 =>
    split at h
    all_goals cases h
    · exact parts_tickLease p
    · exact .refl
  all_goals
    cases h
    exact .refl

theorem parts_stallTimerExpiry {p : PortId} {v : State} (h : execStallTimerExpiry p s = .next v) : Parts E C s v := by
  unfold execStallTimerExpiry at h
  split at h
  case h_1 =>
    split at h
    all_goals cases h
    · exact parts_tickTimer p
    · exact .refl
  all_goals
    cases h
    exact .refl

/-- Every command is a chain of parts. -/
theorem parts_exec {i : Instr} {v : State} (h : exec i s = .next v) (hE : MayEdit i s → E) (hC : MayClearRole i → C) :
    Parts E C s v := by
  cases i
  case portReset => exact .single (.portReset (hC trivial) h)
  case deliverResponse => exact parts_deliver h
  case grant => exact parts_grant h
  case leaseExpiry => exact parts_leaseExpiry h
  case stallTimerExpiry => exact parts_stallTimerExpiry h
  all_goals
    obtain rfl := Host.Outcome.next.inj h
  case deviceReset => exact .single (.deviceReset (hE trivial) (hC trivial))
  case powerUp => exact .single (.poweredUp (hE trivial) (hC trivial))
  case accessRequest => exact .single (.requested ..)
  case translateHeadAccess => exact parts_translateHead .refl _
  case memoryAnswerAccess => exact parts_memoryAnswer _ _ hE
  case memoryAnswerDescriptor => exact parts_memoryAnswer _ _ hE
  case tick => exact parts_tick _ _
  case renewal => exact parts_takeRenewal _ _
  case post => exact .single (part_post _)
  case pop => exact .single (part_pop _)
  case flagWordWrite => exact .single (part_writeFlags (hC trivial) _ _)
  case enableWordWrite | apertureStatusWrite => exact .single (part_modifyPort rfl rfl)
  case apertureWrite => exact parts_apertureWrite _ _ _ _ hC
  all_goals refine parts_take fun t c u v hbody => ?_
  case unknownCommand =>
    split at hbody
    all_goals cases hbody
    exact parts_refused ..
  case sync =>
    split at hbody
    all_goals cases hbody
    exact parts_sync
  case checkPage =>
    split at hbody
    all_goals cases hbody
    exact parts_checkPage ..
  case claim =>
    split at hbody
    all_goals cases hbody
    exact parts_claim
  case accept =>
    split at hbody
    all_goals cases hbody
    exact parts_accept
  case putEntry =>
    split at hbody
    all_goals cases hbody
    exact parts_supervisorOnly fun _ => parts_putEntry (hE trivial) ..
  case discard =>
    split at hbody
    all_goals cases hbody
    exact parts_supervisorOnly fun _ => parts_discard (hE trivial) _
  case clear =>
    split at hbody
    all_goals cases hbody
    exact parts_supervisorOnly fun _ => parts_clear (hE trivial) _
  case load =>
    split at hbody
    all_goals cases hbody
    exact parts_supervisorOnly fun _ => parts_load ..
  case abortLoad =>
    split at hbody
    all_goals cases hbody
    exact parts_supervisorOnly fun _ => parts_abortLoad _
  case commit =>
    split at hbody
    all_goals cases hbody
    exact parts_supervisorOnly fun _ => parts_commit ..
  case cancelCommit =>
    split at hbody
    all_goals cases hbody
    exact parts_supervisorOnly fun _ => parts_cancelCommit ..
  case bind =>
    split at hbody
    all_goals cases hbody
    exact parts_supervisorOnly fun _ => parts_bind ..
  case unbind =>
    split at hbody
    all_goals cases hbody
    exact parts_supervisorOnly fun _ => parts_unbind _
  case setLease =>
    split at hbody
    all_goals cases hbody
    exact parts_supervisorOnly fun _ => parts_setLease ..
  case fence =>
    split at hbody
    all_goals cases hbody
    exact parts_supervisorOnly fun _ => parts_fence _
  case unfence =>
    split at hbody
    all_goals cases hbody
    exact parts_supervisorOnly fun _ => parts_unfence _
  case readFault =>
    split at hbody
    all_goals cases hbody
    exact parts_supervisorOnly fun _ => parts_readFault _
  case setStandby =>
    split at hbody
    all_goals cases hbody
    exact parts_supervisorOnly fun _ => parts_setStandby _
  case handover =>
    split at hbody
    all_goals cases hbody
    exact parts_supervisorOnly fun hp => parts_handover _ hp
  case configure =>
    split at hbody
    all_goals cases hbody
    exact parts_supervisorOnly fun _ => parts_configure ..
  case resolveRetry =>
    split at hbody
    case h_2 => cases hbody
    split at hbody
    all_goals cases hbody
    exact parts_supervisorOnly fun _ => parts_resolve _ _ _ fun q => parts_translateHead (parts_endStall q (.inl rfl)) q
  case resolveSkip =>
    split at hbody
    case h_2 => cases hbody
    split at hbody
    all_goals cases hbody
    exact parts_supervisorOnly fun _ => parts_resolve _ _ _ fun q => parts_translateHead (parts_endStall q (.inr ⟨_, rfl⟩)) q
  case resolveFence =>
    split at hbody
    case h_2 => cases hbody
    split at hbody
    all_goals cases hbody
    exact parts_supervisorOnly fun _ => parts_resolve _ _ _ fun q => .single (.fenced fun hcause => absurd rfl hcause)

/-- A step is a chain of parts. -/
theorem parts_step {v : State} (h : step s = .next v) : Parts True True s v := by
  have hrest (rest : List Instr) : Part True True s { s with pending := rest } :=
    .control ⟨rfl, rfl, rfl, rfl, rfl, rfl, rfl, rfl⟩ (.inl trivial)
  unfold step at h
  split at h
  · cases h
    exact .refl
  · exact (parts_of_part (hrest _)).trans (parts_exec h (fun _ => trivial) fun _ => trivial)

/-- What every part keeps, every step keeps. -/
theorem step_keep {P : State → Prop} (hP : ∀ u v, Part True True u v → P u → P v) {v : State} (hs : P s)
    (h : step s = .next v) : P v := (parts_step h).keep hP hs

end Sys2Proof.Machine
end

section
/-! The map slots apart from their live images and conditions, the port reset part by part, and the state after reset. -/

namespace Sys2Proof.Machine

/-! ## Requests accepted -/

/-- R22: the acceptance of held requests changes only the access slots, their arrival order and the request channel. -/
theorem acceptFrom_eq (held : List HeldRequest) (r : PortRec) :
    ∃ slots arrival requests,
      r.acceptFrom held = { r with slots := slots, arrival := arrival, requests := requests } := by
  induction held generalizing r with
  | nil => exact ⟨r.slots, r.arrival, [], rfl⟩
  | cons x rest ih =>
    unfold PortRec.acceptFrom
    split
    · next k _ =>
      obtain ⟨slots, arrival, requests, h⟩ := ih (r.accept k x.access)
      exact ⟨slots, arrival, requests, h⟩
    · exact ⟨r.slots, r.arrival, x :: rest, rfl⟩

section AcceptHeld
variable (r : PortRec)

@[simp] theorem acceptHeld_state : r.acceptHeld.state = r.state := by
  obtain ⟨_, _, _, h⟩ := acceptFrom_eq r.requests r
  exact congrArg (·.state) h

@[simp] theorem acceptHeld_params : r.acceptHeld.params = r.params := by
  obtain ⟨_, _, _, h⟩ := acceptFrom_eq r.requests r
  exact congrArg (·.params) h

@[simp] theorem acceptHeld_flags : r.acceptHeld.flags = r.flags := by
  obtain ⟨_, _, _, h⟩ := acceptFrom_eq r.requests r
  exact congrArg (·.flags) h

@[simp] theorem acceptHeld_outstanding : r.acceptHeld.outstanding = r.outstanding := by
  obtain ⟨_, _, _, h⟩ := acceptFrom_eq r.requests r
  exact congrArg (·.outstanding) h

@[simp] theorem acceptHeld_commands : r.acceptHeld.commands = r.commands := by
  obtain ⟨_, _, _, h⟩ := acceptFrom_eq r.requests r
  exact congrArg (·.commands) h

@[simp] theorem acceptHeld_completions : r.acceptHeld.completions = r.completions := by
  obtain ⟨_, _, _, h⟩ := acceptFrom_eq r.requests r
  exact congrArg (·.completions) h

end AcceptHeld

section States
variable (s : State)

@[simp] theorem update_states_self (p : PortId) : Function.update s.states p s.ports[p.val].state = s.states :=
  Function.update_eq_self p s.states

@[simp] theorem states_modifyPort (p : PortId) (f : PortRec → PortRec) :
    (s.modifyPort p f).states = Function.update s.states p (f s.ports[p.val]).state :=
  states_of_update (r := (f s.ports[p]).body) (bodies_modifyPort s p f)

@[simp] theorem states_modifySlot (n : SlotId) (f : MapSlot → MapSlot) : (s.modifySlot n f).states = s.states := rfl

@[simp] theorem states_raiseBinders (n : SlotId) : (s.raiseBinders n).states = s.states := rfl

@[simp] theorem states_lowerBinders (n : SlotId) : (s.lowerBinders n).states = s.states := rfl

@[simp] theorem states_retireAccess (p : PortId) : (s.retireAccess p).states = s.states := rfl

@[simp] theorem states_retireLease (p : PortId) : (s.retireLease p).states = s.states := rfl

@[simp] theorem states_leaveWaiting (p : PortId) (n : SlotId) : (s.leaveWaiting p n).states = s.states :=
  states_of_bodies (bodies_leaveWaiting ..)

@[simp] theorem states_moveRights (h : Holdings) : (s.moveRights h).states = s.states :=
  states_of_bodies (bodies_moveRights ..)

@[simp] theorem states_endRoles (p : PortId) : (s.endRoles p).states = s.states :=
  states_of_bodies (bodies_endRoles ..)

@[simp] theorem states_answerHead (p : PortId) (k : AccId) (a : Access) (kind : ResponseKind) :
    (s.answerHead p k a kind).states = s.states := states_of_update_of_state (bodies_answerHead s p k a kind) rfl

@[simp] theorem states_issueAccess (p : PortId) (k : AccId) (a : Access) (n : SlotId) (frame : Frame) :
    (s.issueAccess p k a n frame).states = s.states := states_of_update_of_state (bodies_issueAccess s p k a n frame) rfl

@[simp] theorem states_stallPort (p : PortId) (k : AccId) (a : Access) (b : Binding) (kind : FaultKind) :
    (s.stallPort p k a b kind).states =
      Function.update s.states p
        (.stalled { b with lease := { b.lease with phase := .frozen } }
          { access := k, seq := s.nextSequence, timer := if s.stallLimit = 0 then none else some s.stallLimit }) :=
  states_of_update (bodies_stallPort s p k a b kind)

theorem states_endStall {p : PortId} {b : Binding} {st : Stall} (f : AccessSlot → AccessSlot)
    (h : s.ports[p].state = .stalled b st) :
    (s.endStall p f).states =
      Function.update s.states p (.attached { b with lease := s.ports[p].params.restart b.lease }) :=
  states_of_update (bodies_endStall s f h)

@[simp] theorem states_detach (p : PortId) (st : PortState) : (s.detach p st).states = Function.update s.states p st :=
  states_of_update (bodies_detach s p st)

@[simp] theorem states_enterFenced (p : PortId) (cause : Option LeaseKind) :
    (s.enterFenced p cause).states = Function.update s.states p .fenced :=
  states_of_update (bodies_enterFenced s p cause)

@[simp] theorem grantPort_ports (q : Fin 7) (p : PortId) (number : TxnId) : (s.grantPort q p number).ports = s.ports := by
  unfold State.grantPort
  split <;> rfl

@[simp] theorem grantLoad_ports (q : Fin 7) (number : TxnId) : (s.grantLoad q number).ports = s.ports := by
  unfold State.grantLoad
  split
  · rfl
  · split <;> rfl

@[simp] theorem grantPort_slots (q : Fin 7) (p : PortId) (number : TxnId) : (s.grantPort q p number).slots = s.slots := by
  unfold State.grantPort
  split <;> rfl

@[simp] theorem grantLoad_slots (q : Fin 7) (number : TxnId) : (s.grantLoad q number).slots = s.slots := by
  unfold State.grantLoad
  split
  · rfl
  · split <;> rfl

theorem states_of_ports {s t : State} (h : t.ports = s.ports) : t.states = s.states := by
  funext q
  simp only [State.states, State.bodies, h]

@[simp] theorem states_grantPort (q : Fin 7) (p : PortId) (number : TxnId) : (s.grantPort q p number).states = s.states :=
  states_of_ports (grantPort_ports ..)

@[simp] theorem states_grantLoad (q : Fin 7) (number : TxnId) : (s.grantLoad q number).states = s.states :=
  states_of_ports (grantLoad_ports ..)

/-- R38, R39: where memory's answer goes, the port keeps its state. -/
@[simp] theorem placeAnswer_state (r : PortRec) (k : AccId) (outcome : MemOutcome) (data : List Byte) :
    (r.placeAnswer k outcome data).state = r.state := by
  unfold PortRec.placeAnswer
  split
  · rfl
  · exact acceptHeld_state _
  · rfl

@[simp] theorem countTick_state (r : PortRec) (b : Binding) :
    (r.countTick b).state = .attached { b with lease := r.params.count b.lease } := by
  rw [countTick_eq]

end States

/-! ## The ledger of a map slot -/

/-- A map slot without its live image and its condition: the staged image and the two counts. -/
def MapSlot.ledger (m : MapSlot) : MapSlot := { m with live := Image.empty, condition := .clean }

/-- The ledger of every map slot. -/
def State.ledgers (s : State) (n : SlotId) : MapSlot := s.slots[n].ledger

section Ledgers
variable {s t : State}

theorem ledgers_of_slots (h : t.slots = s.slots) : t.ledgers = s.ledgers := by
  unfold State.ledgers
  rw [h]

variable (s)

@[simp] theorem update_ledgers_self (n : SlotId) : Function.update s.ledgers n s.slots[n.val].ledger = s.ledgers :=
  Function.update_eq_self n s.ledgers

@[simp] theorem ledgers_modifyPort (p : PortId) (f : PortRec → PortRec) : (s.modifyPort p f).ledgers = s.ledgers := rfl

@[simp] theorem ledgers_modifySlot (n : SlotId) (f : MapSlot → MapSlot) :
    (s.modifySlot n f).ledgers = Function.update s.ledgers n (f s.slots[n.val]).ledger := by
  funext m
  simp only [State.ledgers, Fin.getElem_fin, State.slots_modifySlot, Function.update_apply, eq_comm (a := m)]
  split <;> rfl

@[simp] theorem ledgers_raiseBinders (n : SlotId) :
    (s.raiseBinders n).ledgers =
      Function.update s.ledgers n { s.ledgers n with binders := (s.ledgers n).binders + 1 } :=
  ledgers_modifySlot s n fun m => { m with binders := m.binders + 1 }

@[simp] theorem ledgers_lowerBinders (n : SlotId) :
    (s.lowerBinders n).ledgers =
      Function.update s.ledgers n { s.ledgers n with binders := (s.ledgers n).binders - 1 } :=
  ledgers_modifySlot s n fun m => { m with binders := m.binders - 1 }

theorem ledgers_modifySlot_of_ledger {n : SlotId} {f : MapSlot → MapSlot}
    (h : (f s.slots[n.val]).ledger = s.slots[n.val].ledger) : (s.modifySlot n f).ledgers = s.ledgers := by
  rw [ledgers_modifySlot, h]
  exact Function.update_eq_self n s.ledgers

@[simp] theorem completeCommit_slots (c : PendingCommit) (x : Status) (r : Option Result) :
    (s.completeCommit c x r).slots = s.slots := by
  unfold State.completeCommit
  split <;> rfl

theorem ledgers_swapMark (n : SlotId) (c : PendingCommit) : (s.swapMark n c).ledgers = s.ledgers :=
  (ledgers_of_slots (completeCommit_slots ..)).trans (ledgers_modifySlot_of_ledger s rfl)

@[simp] theorem ledgers_grantPort (q : Fin 7) (p : PortId) (number : TxnId) :
    (s.grantPort q p number).ledgers = s.ledgers := ledgers_of_slots (grantPort_slots ..)

@[simp] theorem ledgers_grantLoad (q : Fin 7) (number : TxnId) : (s.grantLoad q number).ledgers = s.ledgers :=
  ledgers_of_slots (grantLoad_slots ..)

@[simp] theorem ledgers_moveRights (h : Holdings) : (s.moveRights h).ledgers = s.ledgers := rfl

@[simp] theorem ledgers_answerHead (p : PortId) (k : AccId) (a : Access) (kind : ResponseKind) :
    (s.answerHead p k a kind).ledgers = s.ledgers := rfl

@[simp] theorem ledgers_issueAccess (p : PortId) (k : AccId) (a : Access) (n : SlotId) (frame : Frame) :
    (s.issueAccess p k a n frame).ledgers =
      Function.update s.ledgers n { s.ledgers n with inFlight := (s.ledgers n).inFlight + 1 } :=
  ledgers_modifySlot (s.modifyPort p fun r =>
    { r with slots := r.slots.set k (some { access := a, state := .issued n false }) }) n fun m =>
      { m with inFlight := m.inFlight + 1 }

@[simp] theorem ledgers_leaveWaiting (p : PortId) (n : SlotId) : (s.leaveWaiting p n).ledgers = s.ledgers := by
  unfold State.leaveWaiting
  split
  case h_2 | h_3 => rfl
  split
  · rfl
  split
  case isFalse => rfl
  split
  · exact ledgers_swapMark ..
  · exact ledgers_modifySlot_of_ledger s rfl

@[simp] theorem ledgers_stallPort (p : PortId) (k : AccId) (a : Access) (b : Binding) (kind : FaultKind) :
    (s.stallPort p k a b kind).ledgers = s.ledgers := by
  unfold State.stallPort
  rw [ledgers_leaveWaiting]
  exact ledgers_of_slots (State.joinFault_slots ..)

@[simp] theorem ledgers_endStall (p : PortId) (f : AccessSlot → AccessSlot) : (s.endStall p f).ledgers = s.ledgers :=
  ledgers_of_slots (State.endStall_slots ..)

theorem ledgers_disown (p : PortId) : (s.disown p).ledgers = s.ledgers := by
  funext n
  simp [State.ledgers, State.disown, MapSlot.ledger]

/-- The end of a binding lowers the binder count of its slot. -/
theorem ledgers_detach (p : PortId) (st : PortState) (n : SlotId) :
    (s.detach p st).ledgers n =
      if (s.states p).boundSlot? = some n then { s.ledgers n with binders := (s.ledgers n).binders - 1 }
      else s.ledgers n := by
  cases hbound : (s.states p).boundSlot? with
  | none =>
    rw [detach_of_unbound hbound]
    rfl
  | some m =>
    rw [detach_of_bound hbound, ledgers_leaveWaiting]
    refine (congrFun (ledgers_modifySlot (s.modifyPort p ({ · with state := st })) m _) n).trans ?_
    simp only [Function.update_apply, eq_comm (a := n), Option.some.injEq]
    split
    · next e =>
      subst e
      rfl
    · rfl

theorem ledgers_enterFenced (p : PortId) (cause : Option LeaseKind) :
    (s.enterFenced p cause).ledgers = (s.detach p .detached).ledgers := by
  have hslots : (s.enterFenced p cause).ledgers =
      (((s.modifyPort p (·.answerFenced)).retireAccess p).detach p .fenced).ledgers := by
    unfold State.enterFenced
    exact ledgers_of_slots (by simp)
  rw [hslots]
  funext n
  have hstate : ((s.modifyPort p (·.answerFenced)).retireAccess p).states p = s.states p :=
    congrFun ((states_modifyPort s p (·.answerFenced)).trans (update_states_self ..)) p
  rw [ledgers_detach, ledgers_detach, hstate]
  rfl

end Ledgers

/-! ## The port reset -/

/-- A port reset up to the change of the port's state: parts 1 and 2 (R112, R113). -/
def State.resetAccesses (s : State) (p : PortId) : State :=
  ((s.modifyPort p (·.emptyControl)).disown p).modifyPort p (·.emptyAccesses)

/-- The state a port reset leaves its port in (R114). -/
def PortState.afterReset : PortState → PortState
  | .fenced => .fenced
  | .detached | .attached _ | .stalled _ _ => .detached

theorem afterReset_boundSlot? (st : PortState) : st.afterReset.boundSlot? = none := by cases st <;> rfl

theorem exec_portReset (s : State) (p : PortId) :
    exec (.portReset p) s = .next
      (((((s.resetAccesses p).resetState p).endRoles p).modifyPort p (·.clearFlags)).modifyPort p (·.acceptHeld)) := rfl

/-- R114: a bound port loses its ACCESS record and its binding. -/
theorem resetState_of_bound {s : State} {p : PortId} {n : SlotId} (h : s.ports[p].state.boundSlot? = some n) :
    s.resetState p = (s.retireAccess p).detach p .detached := by
  unfold State.resetState State.port
  cases hstate : s.ports[p].state with
  | attached | stalled => rfl
  | detached | fenced =>
    rw [hstate] at h
    cases h

theorem resetState_of_unbound {s : State} {p : PortId} (h : s.ports[p].state.boundSlot? = none) : s.resetState p = s := by
  unfold State.resetState State.port
  cases hstate : s.ports[p].state with
  | detached | fenced => rfl
  | attached | stalled =>
    rw [hstate] at h
    cases h

section PortReset
variable (s : State) (p : PortId)

theorem states_resetAccesses : (s.resetAccesses p).states = s.states := by
  unfold State.resetAccesses
  rw [states_modifyPort]
  exact (update_states_self ..).trans ((states_modifyPort ..).trans (update_states_self ..))

theorem ledgers_resetAccesses : (s.resetAccesses p).ledgers = s.ledgers := ledgers_disown (s.modifyPort p (·.emptyControl)) p

theorem states_resetState : (s.resetState p).states = Function.update s.states p s.ports[p].state.afterReset := by
  unfold State.resetState State.port
  cases hstate : s.ports[p].state with
  | attached | stalled => exact states_detach (s.retireAccess p) p .detached
  | detached | fenced => exact (Function.update_eq_self_iff.2 hstate.symm).symm

theorem states_portReset {s : State} {p : PortId} {t : State} (h : exec (.portReset p) s = .next t) :
    t.states = Function.update s.states p s.ports[p].state.afterReset := by
  obtain rfl := Host.Outcome.next.inj ((exec_portReset s p).symm.trans h)
  have hstate : (s.resetAccesses p).ports[p].state = s.ports[p].state := congrFun (states_resetAccesses s p) p
  have hclear (u : State) : (u.modifyPort p (·.clearFlags)).states = u.states :=
    (states_modifyPort ..).trans (update_states_self ..)
  have haccept (u : State) : (u.modifyPort p (·.acceptHeld)).states = u.states := by simp
  rw [haccept, hclear, states_endRoles, states_resetState, states_resetAccesses, hstate]

theorem ledgers_resetState (n : SlotId) :
    (s.resetState p).ledgers n =
      if (s.states p).boundSlot? = some n then { s.ledgers n with binders := (s.ledgers n).binders - 1 }
      else s.ledgers n := by
  cases hbound : (s.states p).boundSlot? with
  | none =>
    rw [resetState_of_unbound hbound]
    rfl
  | some m =>
    rw [resetState_of_bound hbound, ledgers_detach, ← hbound]
    rfl

theorem ledgers_portReset {s : State} {p : PortId} {t : State} (h : exec (.portReset p) s = .next t) :
    t.ledgers = (s.detach p .detached).ledgers := by
  obtain rfl := Host.Outcome.next.inj ((exec_portReset s p).symm.trans h)
  have hslots : ((((s.resetAccesses p).resetState p).endRoles p).modifyPort p (·.clearFlags)).ledgers =
      ((s.resetAccesses p).resetState p).ledgers := ledgers_of_slots (State.endRoles_slots ..)
  refine hslots.trans (funext fun n => ?_)
  rw [ledgers_resetState, ledgers_detach, states_resetAccesses, ledgers_resetAccesses]

end PortReset

/-! ## The state after reset -/

section Reset

@[simp] theorem reset_slot (n : SlotId) : State.reset.slots[n.val] = MapSlot.reset := by simp [State.reset]

@[simp] theorem reset_port (p : PortId) : State.reset.ports[p.val] = PortRec.reset := by simp [State.reset]

@[simp] theorem reset_issue (p : PortId) : State.reset.mem.issue[p.val] = [] := by simp [State.reset, MemPort.reset]

@[simp] theorem reset_accessSlot (k : AccId) : PortRec.reset.slots[k.val] = none := by simp [PortRec.reset]

end Reset

/-- Settles O3: every queue, count and order of the reset state is empty, and every port is DETACHED. -/
theorem resetIsSound : Obligations.ResetIsSound where
  binderCounts n := by simp [MapSlot.reset, PortRec.reset, PortState.boundSlot?, PortState.binding?]
  inFlightCounts n := by
    have hqueued : State.reset.queuedThrough n = fun _ => 0 := funext fun p => by simp [State.queuedThrough]
    rw [hqueued]
    simp [MapSlot.reset, State.reset, MemPort.reset]
  cleanAreEqual n _ := by simp [MapSlot.reset]
  sealedNotLoadHeld n _ := rfl
  waitersBound n p h := by simp [MapSlot.reset, Condition.waiting] at h
  noSwapDue n c h := by simp [MapSlot.reset] at h
  leasesSound p := by
    simp [PortRec.reset, PortRec.LeaseSound, LeaseParams.reset, Config.minPeriod, Config.maxPeriod, Config.resetPeriod]
  rolesSound := by
    refine ⟨fun p _ => ⟨nofun, nofun⟩, nofun, fun p hp => ?_⟩
    simp [PortRec.reset, PortState.isFenced] at hp
  outstandingCounts p := by
    simp [State.inProgress, MapSlot.reset, PortRec.reset, Config.commandLimit, State.reset]
  faultQueueSound := by
    refine ⟨List.nodup_nil, fun p => ⟨?_, Nat.zero_le _⟩⟩
    simp [PortRec.reset, State.reset]
  loadQueueSound := ⟨Nat.zero_le _, nofun, trivial⟩
  outstandingSetSound := ⟨List.nodup_nil, Nat.zero_le _, nofun⟩
  loadReadSound := rfl
  arrivalsSound p := by
    refine ⟨?_, ?_, ?_⟩ <;> simp [PortRec.reset]
  stallsSound p k := by simp [PortRec.reset]
  issuedSound p k := by simp [State.transactionsOf, PortRec.reset, State.reset, MemPort.reset]
  configurationSound := by simp [State.ConfigurationSound, State.reset, Config.maxMemsize]
  timersSound p := by simp [PortRec.reset]

/-- A reset of the hub leaves what the reset state has, but for what the ports then accept from their request channels. -/
@[simp] theorem states_deviceReset (s : State) : s.deviceReset.acceptAll.states = State.reset.states := by
  funext p
  simp [State.states, State.bodies, State.acceptAll, State.deviceReset, PortRec.body]

end Sys2Proof.Machine
end

section
/-! Binder counts: every part of a happening keeps each slot's binder count equal to the number of ports bound to it (R8). -/

namespace Sys2Proof.Machine

/-! ## Counting over an updated function -/

/-- A sum over a finite range when the function changes at one place. -/
theorem sum_finRange_update {α : Type} {k : Nat} (σ : Fin k → α) (q : Fin k) (x : α) (f : α → Nat) :
    ((List.finRange k).map fun i => f (Function.update σ q x i)).sum + f (σ q) =
      ((List.finRange k).map fun i => f (σ i)).sum + f x := by
  have hcomp : (fun i => f (Function.update σ q x i)) = Function.update (fun i => f (σ i)) q (f x) := by
    funext i
    exact Function.apply_update (fun _ => f) σ q x i
  rw [hcomp, ← Fin.sum_univ_def, ← Fin.sum_univ_def, Finset.sum_update_of_mem (Finset.mem_univ q),
    ← Finset.add_sum_erase Finset.univ (fun i => f (σ i)) (Finset.mem_univ q), Finset.sdiff_singleton_eq_erase]
  omega

theorem countP_eq_sum {α : Type} (f : α → Bool) (l : List α) : l.countP f = (l.map fun a => (f a).toNat).sum := by
  induction l with
  | nil => rfl
  | cons a l ih =>
    rw [List.countP_cons, ih, List.map_cons, List.sum_cons, Nat.add_comm]
    cases f a <;> rfl

/-- A count over a finite range when the function changes at one place. -/
theorem countP_finRange_update {α : Type} {k : Nat} (σ : Fin k → α) (q : Fin k) (x : α) (f : α → Bool) :
    ((List.finRange k).countP fun i => f (Function.update σ q x i)) + (f (σ q)).toNat =
      ((List.finRange k).countP fun i => f (σ i)) + (f x).toNat := by
  rw [countP_eq_sum, countP_eq_sum]
  exact sum_finRange_update σ q x fun a => (f a).toNat

/-! ## Binder counts over the ledgers and the states -/

/-- The number of ports whose binding names the slot. -/
def boundCount (states : PortId → PortState) (n : SlotId) : Nat :=
  (List.finRange 6).countP fun p => (states p).boundSlot? = some n

theorem binderCounts_iff (s : State) : s.BinderCounts ↔ ∀ n, (s.ledgers n).binders = boundCount s.states n := Iff.rfl

theorem boundCount_update (states : PortId → PortState) (q : PortId) (st : PortState) (n : SlotId) :
    boundCount (Function.update states q st) n + (decide ((states q).boundSlot? = some n)).toNat =
      boundCount states n + (decide (st.boundSlot? = some n)).toNat :=
  countP_finRange_update states q st fun x => decide (x.boundSlot? = some n)

theorem boundCount_update_of_boundSlot (states : PortId → PortState) {q : PortId} {st : PortState}
    (h : st.boundSlot? = (states q).boundSlot?) : boundCount (Function.update states q st) = boundCount states := by
  funext n
  have := boundCount_update states q st n
  rw [h] at this
  omega

section Keep
variable {s t : State}

/-- What leaves the binder counts and the bound slots keeps their agreement. -/
theorem binderCounts_of_eq (h : s.BinderCounts) (hl : ∀ n, (t.ledgers n).binders = (s.ledgers n).binders)
    (hs : boundCount t.states = boundCount s.states) : t.BinderCounts := fun n =>
  (hl n).trans ((h n).trans (congrFun hs n).symm)

theorem binderCounts_of_frames (h : s.BinderCounts) (hl : t.ledgers = s.ledgers) (hs : t.states = s.states) :
    t.BinderCounts := binderCounts_of_eq h (fun n => congrArg (·.binders) (congrFun hl n)) (by rw [hs])

/-- A map slot that changes but for its binder count. -/
theorem binderCounts_of_slot {n : SlotId} {m : MapSlot} (h : s.BinderCounts) (hl : t.ledgers = Function.update s.ledgers n m)
    (hm : m.binders = (s.ledgers n).binders) (hs : t.states = s.states) : t.BinderCounts := by
  refine binderCounts_of_eq h (fun k => ?_) (by rw [hs])
  rw [hl, Function.update_apply]
  split
  · next e => rw [hm, e]
  · rfl

/-- A port whose state changes while its binding names the same slot. -/
theorem binderCounts_of_update {q : PortId} {st : PortState} (h : s.BinderCounts) (hl : t.ledgers = s.ledgers)
    (hs : t.states = Function.update s.states q st) (hst : st.boundSlot? = (s.states q).boundSlot?) : t.BinderCounts :=
  binderCounts_of_eq h (fun n => congrArg (·.binders) (congrFun hl n))
    (by rw [hs, boundCount_update_of_boundSlot _ hst])

/-- R109: the end of a binding. -/
theorem binderCounts_of_unbound {p : PortId} {st : PortState} (h : s.BinderCounts)
    (hl : t.ledgers = (s.detach p .detached).ledgers) (hs : t.states = Function.update s.states p st)
    (hst : st.boundSlot? = none) : t.BinderCounts := by
  rw [binderCounts_iff] at h ⊢
  intro n
  have hcount := boundCount_update s.states p st n
  have hn := h n
  rw [hst] at hcount
  rw [hl, hs, ledgers_detach]
  by_cases hbound : (s.states p).boundSlot? = some n
  · rw [if_pos hbound]
    simp [hbound] at hcount ⊢
    omega
  · rw [if_neg hbound]
    simp [hbound] at hcount ⊢
    omega

/-- R106: a DETACHED port is bound. -/
theorem binderCounts_of_bound {q : PortId} {b : Binding} (h : s.BinderCounts) (hstate : s.ports[q].state = .detached)
    (hl : t.ledgers = Function.update s.ledgers b.slot { s.ledgers b.slot with binders := (s.ledgers b.slot).binders + 1 })
    (hs : t.states = Function.update s.states q (.attached b)) : t.BinderCounts := by
  rw [binderCounts_iff] at h ⊢
  intro n
  have hcount := boundCount_update s.states q (.attached b) n
  have hunbound : (s.states q).boundSlot? = none := congrArg (·.boundSlot?) hstate
  have hn := h n
  rw [hunbound] at hcount
  rw [hl, hs, Function.update_apply]
  by_cases e : n = b.slot
  · subst e
    simp [PortState.boundSlot?, PortState.binding?] at hcount ⊢
    omega
  · simp [PortState.boundSlot?, PortState.binding?, e, Ne.symm e] at hcount ⊢
    omega

/-- R107: a binding moves from one slot to another. -/
theorem binderCounts_of_rebound {q : PortId} {b b' : Binding} (h : s.BinderCounts) (hstate : s.ports[q].state = .attached b)
    (hne : b.slot ≠ b'.slot)
    (hl : t.ledgers =
      Function.update
        (Function.update s.ledgers b.slot { s.ledgers b.slot with binders := (s.ledgers b.slot).binders - 1 }) b'.slot
        { s.ledgers b'.slot with binders := (s.ledgers b'.slot).binders + 1 })
    (hs : t.states = Function.update s.states q (.attached b')) : t.BinderCounts := by
  rw [binderCounts_iff] at h ⊢
  intro n
  have hcount := boundCount_update s.states q (.attached b') n
  have hbound : (s.states q).boundSlot? = some b.slot := congrArg (·.boundSlot?) hstate
  have hn := h n
  rw [hbound] at hcount
  rw [hl, hs, Function.update_apply, Function.update_apply]
  by_cases e' : n = b'.slot
  · subst e'
    simp [PortState.boundSlot?, PortState.binding?, hne] at hcount ⊢
    omega
  · by_cases e : n = b.slot
    · subst e
      simp [PortState.boundSlot?, PortState.binding?, Ne.symm hne] at hcount ⊢
      rw [if_neg e']
      simp
      omega
    · simp [PortState.boundSlot?, PortState.binding?, e, e', Ne.symm e, Ne.symm e'] at hcount ⊢
      omega

end Keep

/-- R8, R106 to R109: of the parts of a happening those that bind and unbind ports change the counts, each with its binding. -/
theorem binderCounts_part {E C : Prop} {s t : State} (hpart : Part E C s t) (h : s.BinderCounts) : t.BinderCounts := by
  cases hpart
  case control hc _ => exact binderCounts_of_frames h (ledgers_of_slots hc.slots) (states_of_bodies hc.bodies)
  case requested | delivered | headAnswered | portGranted | loadGranted | leaseParamsSet | rightsMoved | waitingLeft =>
    exact binderCounts_of_frames h (by simp) (by simp)
  case configured | loadAccepted | loadsAborted | loadAnswered => exact h
  case headIssued => exact binderCounts_of_slot h (ledgers_issueAccess ..) rfl (states_issueAccess ..)
  case accessAnswered p k through m _ _ hm =>
    refine binderCounts_of_slot (m := m.ledger) (n := through) h (ledgers_modifySlot ..) ?_ ?_
    · cases hm <;> rfl
    · exact states_of_update_of_state (s := s) (bodies_modifyPort { s with mem := _ } p (·.placeAnswer k _ _))
        (placeAnswer_state ..)
  case edited | committed | swapped | unsealed => exact binderCounts_of_slot h (ledgers_modifySlot ..) rfl rfl
  case leaseCounted hstate _ =>
    refine binderCounts_of_update h rfl (states_modifyPort ..) ?_
    rw [countTick_state, states_apply, hstate]
    rfl
  case leaseRenewed hstate | timerLowered hstate _ _ =>
    exact binderCounts_of_update h rfl (states_modifyPort ..) (congrArg (·.boundSlot?) hstate).symm
  case headStalled hstate =>
    exact binderCounts_of_update h (by simp) (states_stallPort ..) (congrArg (·.boundSlot?) hstate).symm
  case stallEnded hstate _ =>
    exact binderCounts_of_update h (by simp) (states_endStall s _ hstate) (congrArg (·.boundSlot?) hstate).symm
  case unfenced hstate =>
    exact binderCounts_of_update h rfl (states_modifyPort ..) (congrArg (·.boundSlot?) hstate).symm
  case unbound => exact binderCounts_of_unbound h rfl (states_detach ..) rfl
  case fenced => exact binderCounts_of_unbound h (ledgers_enterFenced ..) (states_enterFenced ..) rfl
  case portReset _ hreset =>
    exact binderCounts_of_unbound h (ledgers_portReset hreset) (states_portReset hreset) (afterReset_boundSlot? _)
  case bound q n hstate =>
    exact binderCounts_of_bound (b := { slot := n, lease := s.ports[q.val].params.start }) h hstate (by simp) (by simp)
  case rebound b n hstate hne =>
    exact binderCounts_of_rebound (b' := { slot := n, lease := b.lease }) h hstate hne
      (by simp [Function.update_of_ne hne.symm]) (by simp)
  case deviceReset => exact binderCounts_of_frames resetIsSound.binderCounts rfl (states_deviceReset s)
  case poweredUp => exact resetIsSound.binderCounts

/-- Settles O4: what every part keeps, every step keeps. -/
theorem binderCountsKept : Obligations.BinderCountsKept := fun _ _ hs h => step_keep (fun _ _ => binderCounts_part) hs h

end Sys2Proof.Machine
end

section
/-! In-flight counts: every part of a happening keeps each slot's in-flight count equal to the number of transactions at the memory
port that were translated through it (R7). -/

namespace Sys2Proof.Machine

/-! ## The transactions at the memory port -/

/-- The transactions translated through slot `n` that stand in the issue queues or in the outstanding set. -/
def MemPort.through (m : MemPort) (n : SlotId) : Nat :=
  ((List.finRange 6).map fun p => m.issue[p].countP (·.through = n)).sum +
    m.entries.countP fun e => e.requester.goesThrough n

theorem inFlightCounts_iff (s : State) : s.InFlightCounts ↔ ∀ n, (s.ledgers n).inFlight = s.mem.through n := Iff.rfl

/-- A change of one issue queue. -/
theorem sum_issue_set (m : MemPort) (p : PortId) (queue : List Issued) (n : SlotId) :
    ((List.finRange 6).map fun q => (m.issue.set p queue)[q].countP (·.through = n)).sum + m.issue[p].countP (·.through = n) =
      ((List.finRange 6).map fun q => m.issue[q].countP (·.through = n)).sum + queue.countP (·.through = n) := by
  have hset : (fun q : PortId => (m.issue.set p queue)[q]) = Function.update (fun q : PortId => m.issue[q]) p queue := by
    funext q
    simp only [Fin.getElem_fin, Vector.getElem_set, Function.update_apply, Fin.val_inj, eq_comm (a := q)]
  have hsum := sum_finRange_update (fun q : PortId => m.issue[q]) p queue fun l => l.countP (·.through = n)
  rw [← hset] at hsum
  exact hsum

theorem through_enqueue (m : MemPort) (p : PortId) (x : Issued) (n : SlotId) :
    (m.enqueue p x).through n = m.through n + if x.through = n then 1 else 0 := by
  have hsum := sum_issue_set m p (m.issue[p] ++ [x]) n
  rw [List.countP_append, List.countP_singleton] at hsum
  simp only [decide_eq_true_eq] at hsum
  show _ + m.entries.countP _ = _ + m.entries.countP _ + _
  simp only [MemPort.enqueue]
  omega

section Grants
variable (s : State)

theorem grantPort_of_nil {q : Fin 7} {p : PortId} {number : TxnId} (h : s.mem.issue[p] = []) :
    s.grantPort q p number = s := by
  unfold State.grantPort
  rw [h]

theorem grantPort_mem_of_cons {q : Fin 7} {p : PortId} {number : TxnId} {x : Issued} {rest : List Issued}
    (h : s.mem.issue[p] = x :: rest) :
    (s.grantPort q p number).mem =
      { s.mem with
        entries := s.mem.entries ++
          [{ number := number, generation := s.mem.generation, requester := .port p x.access x.through, kind := x.kind
             beats := x.beats }]
        issue := s.mem.issue.set p rest, position := q + 1 } := by
  unfold State.grantPort
  rw [h]
  rfl

/-- A grant to the load engine changes nothing, or turns the read of the RUNNING job from REQUESTED to OUTSTANDING. -/
theorem grantLoad_cases (q : Fin 7) (number : TxnId) :
    s.grantLoad q number = s ∨ ∃ j rest done, s.jobs = j :: rest ∧ j.state = .running done .requested ∧
      s.grantLoad q number =
        State.send { s with jobs := { j with state := .running done (.outstanding false) } :: rest } q number .loadEngine
          .read (j.wordAddress done) 1 [] := by
  unfold State.grantLoad
  split
  · exact .inl rfl
  · next j rest hjobs =>
    split
    · next done hj => exact .inr ⟨j, rest, done, hjobs, hj, rfl⟩
    · exact .inl rfl
    · exact .inl rfl

theorem through_grantPort (q : Fin 7) (p : PortId) (number : TxnId) (n : SlotId) :
    (s.grantPort q p number).mem.through n = s.mem.through n := by
  cases h : s.mem.issue[p] with
  | nil => rw [grantPort_of_nil s h]
  | cons x rest =>
    have hsum := sum_issue_set s.mem p rest n
    rw [h, List.countP_cons] at hsum
    simp only [MemPort.through, grantPort_mem_of_cons s h, List.countP_append, List.countP_singleton,
      Requester.goesThrough]
    omega

theorem through_grantLoad (q : Fin 7) (number : TxnId) (n : SlotId) :
    (s.grantLoad q number).mem.through n = s.mem.through n := by
  obtain h | ⟨j, rest, done, -, -, h⟩ := grantLoad_cases s q number
  · rw [h]
  · simp [h, MemPort.through, State.send, Requester.goesThrough]

end Grants

/-- An entry of the outstanding set that is answered no longer counts. -/
theorem through_of_answers {s : State} {x : MemAnswer} {before after : List OutEntry} {e : OutEntry}
    (h : s.Answers x before e after) (n : SlotId) :
    s.mem.through n =
      MemPort.through { s.mem with entries := before ++ after } n + if e.requester.goesThrough n = true then 1 else 0 := by
  obtain ⟨-, hentries, -, -⟩ := h
  simp only [MemPort.through, hentries, List.countP_append, List.countP_cons]
  omega

/-! ## The port reset -/

theorem mem_resetState (s : State) (p : PortId) : (s.resetState p).mem = s.mem := by
  unfold State.resetState
  split <;> simp

theorem mem_portReset {s t : State} {p : PortId} (h : exec (.portReset p) s = .next t) : t.mem = s.mem := by
  obtain rfl := Host.Outcome.next.inj ((exec_portReset s p).symm.trans h)
  simp only [State.modifyPort_mem, State.endRoles_mem, mem_resetState]
  rfl

/-! ## The parts -/

section Keep
variable {s t : State}

theorem inFlightCounts_of_eq (h : s.InFlightCounts) (hl : ∀ n, (t.ledgers n).inFlight = (s.ledgers n).inFlight)
    (hm : ∀ n, t.mem.through n = s.mem.through n) : t.InFlightCounts := fun n =>
  (hl n).trans ((h n).trans (hm n).symm)

theorem inFlightCounts_of_frames (h : s.InFlightCounts) (hl : t.ledgers = s.ledgers) (hm : t.mem = s.mem) :
    t.InFlightCounts :=
  inFlightCounts_of_eq h (fun n => congrArg (·.inFlight) (congrFun hl n)) fun n => by rw [hm]

/-- A map slot that changes but for its in-flight count. -/
theorem inFlightCounts_of_slot {n : SlotId} {m : MapSlot} (h : s.InFlightCounts)
    (hl : t.ledgers = Function.update s.ledgers n m) (hm : m.inFlight = (s.ledgers n).inFlight) (hmem : t.mem = s.mem) :
    t.InFlightCounts := by
  refine inFlightCounts_of_eq h (fun k => ?_) fun k => by rw [hmem]
  rw [hl, Function.update_apply]
  split
  · next e => rw [hm, e]
  · rfl

theorem inFlight_detach (s : State) (p : PortId) (st : PortState) (n : SlotId) :
    ((s.detach p st).ledgers n).inFlight = (s.ledgers n).inFlight := by
  rw [ledgers_detach]
  split <;> rfl

theorem inFlightCounts_issued {p : PortId} {k : AccId} {a : Access} {n : SlotId} {frame : Frame} (h : s.InFlightCounts) :
    (s.issueAccess p k a n frame).InFlightCounts := by
  rw [inFlightCounts_iff] at h ⊢
  intro i
  rw [issueAccess_mem, through_enqueue, ← h i, ledgers_issueAccess, Function.update_apply]
  show _ = _ + if n = i then 1 else 0
  by_cases e : i = n
  · rw [if_pos e, if_pos e.symm, e]
  · rw [if_neg e, if_neg (Ne.symm e)]
    rfl

theorem inFlightCounts_answered {x : MemAnswer} {before after : List OutEntry} {e : OutEntry} {p : PortId} {k : AccId}
    {n : SlotId} (h : s.InFlightCounts) (hx : s.Answers x before e after) (he : e.requester = .port p k n)
    (hl : t.ledgers = Function.update s.ledgers n (s.slots[n].lowered.ledger))
    (hm : t.mem = { s.mem with entries := before ++ after }) : t.InFlightCounts := by
  rw [inFlightCounts_iff] at h ⊢
  intro i
  have hi := h i
  rw [through_of_answers hx i, he] at hi
  rw [hl, hm, Function.update_apply]
  by_cases e : i = n
  · subst e
    simp [Requester.goesThrough] at hi ⊢
    show (s.ledgers i).inFlight - 1 = _
    omega
  · simp [Requester.goesThrough, Ne.symm e] at hi
    rw [if_neg e, hi]

end Keep

/-- R7: an issue raises the count of its slot, a grant moves the transaction, and its answer lowers the count; no other part of a
happening touches either. -/
theorem inFlightCounts_part {E C : Prop} {s t : State} (hpart : Part E C s t) (h : s.InFlightCounts) : t.InFlightCounts := by
  cases hpart
  case control hc _ => exact inFlightCounts_of_frames h (ledgers_of_slots hc.slots) hc.mem
  case requested | delivered | headAnswered | headStalled | leaseCounted | leaseRenewed | timerLowered | stallEnded
      | leaseParamsSet | rightsMoved | waitingLeft =>
    exact inFlightCounts_of_frames h (by simp) (by simp)
  case configured | loadAccepted | loadsAborted | unfenced => exact h
  case edited | committed | swapped | unsealed => exact inFlightCounts_of_slot h (ledgers_modifySlot ..) rfl rfl
  case headIssued => exact inFlightCounts_issued h
  case portGranted => exact inFlightCounts_of_eq h (fun n => by simp) fun n => through_grantPort s _ _ _ n
  case loadGranted => exact inFlightCounts_of_eq h (fun n => by simp) fun n => through_grantLoad s _ _ n
  case accessAnswered hx he hm =>
    refine inFlightCounts_answered h hx he ((ledgers_modifySlot ..).trans ?_) rfl
    cases hm <;> rfl
  case loadAnswered hx he _ =>
    refine inFlightCounts_of_eq h (fun n => rfl) fun n => ?_
    rw [through_of_answers hx n, he]
    rfl
  case bound => exact inFlightCounts_of_slot h (ledgers_raiseBinders ..) rfl rfl
  case rebound q b n _ hne =>
    refine inFlightCounts_of_eq h (fun m => ?_) fun m => by simp
    simp only [ledgers_leaveWaiting, ledgers_raiseBinders, ledgers_lowerBinders, ledgers_modifyPort, Function.update_apply]
    split_ifs <;> simp_all
  case unbound => exact inFlightCounts_of_eq h (fun n => inFlight_detach s _ _ n) fun n => by simp
  case fenced =>
    refine inFlightCounts_of_eq h (fun n => ?_) fun n => by simp
    rw [ledgers_enterFenced, inFlight_detach]
  case portReset hreset =>
    refine inFlightCounts_of_eq h (fun n => ?_) fun n => by rw [mem_portReset hreset]
    rw [ledgers_portReset hreset, inFlight_detach]
  case deviceReset => exact resetIsSound.inFlightCounts
  case poweredUp => exact resetIsSound.inFlightCounts

/-- Settles O5: what every part keeps, every step keeps. -/
theorem inFlightCountsKept : Obligations.InFlightCountsKept := fun _ _ hs h =>
  step_keep (fun _ _ => inFlightCounts_part) hs h

end Sys2Proof.Machine
end

section
/-! Commit control: every part of a happening keeps the images of CLEAN slots equal, SEALED slots free of load jobs, waiting sets
within the ports ATTACHED to their slot, and no pending commit at its boundary (R5, R81, R83, R86, R87). -/

namespace Sys2Proof.Machine

/-! ## Slots one at a time -/

/-- What R5, R81, R83, R86 and R87 say of one map slot, when `held` says whether it is load-held and `Member` which ports are
ATTACHED to it. -/
structure MapSlot.CommitSound (m : MapSlot) (held : Bool) (Member : PortId → Prop) : Prop where
  equal : m.condition = .clean → m.staged = m.live
  unheld : m.condition.isSealed = true → held = false
  members : ∀ p ∈ m.condition.waiting, Member p
  waits : ∀ c, m.condition = .sealed c → c.reached m.inFlight = false

/-- The port is ATTACHED and its binding names the slot. -/
def State.AttachedAt (s : State) (n : SlotId) (p : PortId) : Prop := ∃ b, s.states p = .attached b ∧ b.slot = n

/-- Every map slot is as commit control keeps it. -/
def State.CommitControl (s : State) : Prop := ∀ n : SlotId, (s.slot n).CommitSound (s.loadHeld n) (s.AttachedAt n)

theorem attachedAt_iff (s : State) (n : SlotId) (p : PortId) :
    s.AttachedAt n p ↔ (s.port p).state.isAttached = true ∧ (s.port p).state.boundSlot? = some n := by
  unfold State.AttachedAt State.states State.bodies PortRec.body State.port
  cases s.ports[p].state <;> simp [PortState.isAttached, PortState.boundSlot?, PortState.binding?]

theorem commitControl_iff (s : State) :
    s.CommitControl ↔ s.CleanAreEqual ∧ s.SealedNotLoadHeld ∧ s.WaitersBound ∧ s.NoSwapDue := by
  constructor
  · intro h
    exact ⟨fun n => (h n).equal, fun n => (h n).unheld, fun n p hp => (attachedAt_iff s n p).1 ((h n).members p hp),
      fun n => (h n).waits⟩
  · rintro ⟨hequal, hheld, hwaiters, hdue⟩ n
    exact ⟨hequal n, hheld n, fun p hp => (attachedAt_iff s n p).2 (hwaiters n p hp), hdue n⟩

/-- R5, R81: a slot that is not SEALED has no member, no load job to fear and no boundary. -/
theorem commitSound_of_not_sealed {m : MapSlot} {held : Bool} {Member : PortId → Prop}
    (h : m.condition = .dirty ∨ m.condition = .clean ∧ m.staged = m.live) : m.CommitSound held Member := by
  obtain h | ⟨h, heq⟩ := h
  all_goals refine ⟨fun hclean => ?_, fun hsealed => ?_, fun p hp => ?_, fun c hc => ?_⟩
  all_goals simp_all [Condition.isSealed, Condition.waiting]

theorem commitSound_of_weaker {m : MapSlot} {held held' : Bool} {Member Member' : PortId → Prop}
    (h : m.CommitSound held Member) (hheld : held' = true → held = true)
    (hmember : ∀ p ∈ m.condition.waiting, Member p → Member' p) : m.CommitSound held' Member' where
  equal := h.equal
  unheld hsealed := Bool.eq_false_iff.2 fun hheld' => Bool.eq_false_iff.1 (h.unheld hsealed) (hheld hheld')
  members p hp := hmember p hp (h.members p hp)
  waits := h.waits

/-! ## A port leaves a waiting set -/

/-- What becomes of a map slot whose waiting set a port leaves (R86, R87). -/
inductive MapSlot.LeftBy (m : MapSlot) (p : PortId) : MapSlot → Prop
  | stays (h : p ∉ m.condition.waiting) : m.LeftBy p m
  | swaps {c : PendingCommit} (h : m.condition = .sealed c) : m.LeftBy p m.swapped
  | shrinks {c : PendingCommit} {waiting : List PortId} (h : m.condition = .sealed c) (hw : c.boundary = .mark waiting)
      (hothers : waiting.filter (· ≠ p) ≠ []) :
      m.LeftBy p { m with condition := .sealed { c with boundary := .mark (waiting.filter (· ≠ p)) } }

theorem slot_modifySlot_self (s : State) (n : SlotId) (f : MapSlot → MapSlot) : (s.modifySlot n f).slot n = f (s.slot n) :=
  State.slots_modifySlot_self s n f

theorem slot_modifySlot_of_ne (s : State) {m n : SlotId} (f : MapSlot → MapSlot) (h : n ≠ m) :
    (s.modifySlot n f).slot m = s.slot m := State.slots_modifySlot_ne s f h

theorem slot_of_slots {s t : State} (h : t.slots = s.slots) (n : SlotId) : t.slot n = s.slot n := by
  unfold State.slot
  rw [h]

theorem slot_completeCommit (s : State) (c : PendingCommit) (x : Status) (r : Option Result) (n : SlotId) :
    (s.completeCommit c x r).slot n = s.slot n := slot_of_slots (completeCommit_slots ..) n

theorem leftBy_leaveWaiting (s : State) (p : PortId) (n : SlotId) : (s.slot n).LeftBy p ((s.leaveWaiting p n).slot n) := by
  by_cases hp : p ∈ (s.slot n).condition.waiting
  · obtain ⟨c, waiting, hc, hmark, hmem⟩ := (mem_waiting_iff _ p).1 hp
    unfold State.leaveWaiting
    simp only [hc, hmark, hmem, if_true]
    split
    · rw [State.swapMark, slot_completeCommit, slot_modifySlot_self]
      exact .swaps hc
    · next hothers =>
      rw [slot_modifySlot_self]
      exact .shrinks hc hmark (mt List.isEmpty_iff.2 hothers)
  · rw [leaveWaiting_of_not_mem hp]
    exact .stays hp

theorem slot_leaveWaiting_of_ne (s : State) (p : PortId) {m n : SlotId} (h : n ≠ m) :
    (s.leaveWaiting p n).slot m = s.slot m := by
  unfold State.leaveWaiting
  split
  case h_2 | h_3 => rfl
  split
  · rfl
  split
  case isFalse => rfl
  split
  · rw [State.swapMark, slot_completeCommit, slot_modifySlot_of_ne s _ h]
  · exact slot_modifySlot_of_ne s _ h

/-- A slot that a port leaves stays as commit control keeps it when every other member stays ATTACHED. -/
theorem commitSound_of_left {m m' : MapSlot} {p : PortId} {held : Bool} {Member Member' : PortId → Prop}
    (h : m.CommitSound held Member) (hleft : m.LeftBy p m') (hmember : ∀ q, q ≠ p → Member q → Member' q) :
    m'.CommitSound held Member' := by
  cases hleft with
  | stays hp => exact commitSound_of_weaker h id fun q hq => hmember q fun e => hp (e ▸ hq)
  | swaps => exact commitSound_of_not_sealed (.inr ⟨rfl, rfl⟩)
  | @shrinks c waiting hc hw hothers =>
    refine ⟨nofun, fun _ => h.unheld (by rw [hc]; rfl), fun q hq => ?_, fun d hd => ?_⟩
    · obtain ⟨hq, hne⟩ := List.mem_filter.1 hq
      refine hmember q (by simpa using hne) (h.members q ?_)
      exact (mem_waiting_iff _ q).2 ⟨c, waiting, hc, hw, hq⟩
    · obtain rfl := Condition.sealed.inj hd
      exact Bool.eq_false_iff.2 (mt List.isEmpty_iff.1 hothers)

/-! ## The whole store -/

section Keep
variable {s t : State}

/-- What leaves the slots and the load jobs, and leaves every ATTACHED port ATTACHED to its slot. -/
theorem commitControl_of_states (h : s.CommitControl) (hslots : t.slots = s.slots) (hjobs : t.jobs = s.jobs)
    (hstates : ∀ n p, s.AttachedAt n p → t.AttachedAt n p) : t.CommitControl := by
  intro n
  rw [slot_of_slots hslots]
  refine commitSound_of_weaker (h n) (fun hheld => ?_) fun p _ => hstates n p
  rwa [State.loadHeld, hjobs] at hheld

theorem commitControl_of_frames (h : s.CommitControl) (hslots : t.slots = s.slots) (hjobs : t.jobs = s.jobs)
    (hstates : t.states = s.states) : t.CommitControl :=
  commitControl_of_states h hslots hjobs fun n p hp => by rwa [State.AttachedAt, hstates]

theorem attachedAt_of_update {n : SlotId} {p q : PortId} {st : PortState} (hs : t.states = Function.update s.states q st)
    (hst : ∀ b, s.states q = .attached b → ∃ b', st = .attached b' ∧ b'.slot = b.slot) (h : s.AttachedAt n p) :
    t.AttachedAt n p := by
  obtain ⟨b, hb, hn⟩ := h
  by_cases e : p = q
  · subst e
    obtain ⟨b', hb', hslot⟩ := hst b hb
    exact ⟨b', by rw [hs, Function.update_self, hb'], hslot.trans hn⟩
  · exact ⟨b, by rw [hs, Function.update_of_ne e, hb], hn⟩

/-- A change of one port's state that leaves it ATTACHED to the same slot if it was. -/
theorem commitControl_of_update {q : PortId} {st : PortState} (h : s.CommitControl) (hslots : t.slots = s.slots)
    (hjobs : t.jobs = s.jobs) (hs : t.states = Function.update s.states q st)
    (hst : ∀ b, s.states q = .attached b → ∃ b', st = .attached b' ∧ b'.slot = b.slot) : t.CommitControl :=
  commitControl_of_states h hslots hjobs fun _ _ => attachedAt_of_update hs hst

/-- A change of one map slot. -/
theorem commitControl_of_slot {n : SlotId} (h : s.CommitControl) (hne : ∀ m, n ≠ m → t.slot m = s.slot m)
    (hn : (t.slot n).CommitSound (s.loadHeld n) (s.AttachedAt n)) (hjobs : t.jobs = s.jobs) (hstates : t.states = s.states) :
    t.CommitControl := by
  intro m
  have hheld : t.loadHeld m = s.loadHeld m := by unfold State.loadHeld; rw [hjobs]
  have hmember : t.AttachedAt m = s.AttachedAt m := by unfold State.AttachedAt; rw [hstates]
  rw [hheld, hmember]
  by_cases e : n = m
  · subst e
    exact hn
  · rw [hne m e]
    exact h m

theorem commitControl_modifySlot {n : SlotId} {f : MapSlot → MapSlot} (h : s.CommitControl)
    (hn : (f (s.slot n)).CommitSound (s.loadHeld n) (s.AttachedAt n)) : (s.modifySlot n f).CommitControl := by
  refine commitControl_of_slot h (fun m hne => slot_modifySlot_of_ne s f hne) ?_ rfl rfl
  rwa [slot_modifySlot_self]

/-- A change of the load queue that brings no job for a SEALED slot. -/
theorem commitControl_of_jobs (h : s.CommitControl) (hslots : t.slots = s.slots)
    (hjobs : ∀ n, (s.slot n).condition.isSealed = true → t.loadHeld n = true → s.loadHeld n = true)
    (hstates : t.states = s.states) : t.CommitControl := by
  intro n
  have hn := h n
  rw [slot_of_slots hslots]
  exact ⟨hn.equal, fun hsealed => Bool.eq_false_iff.2 fun hheld =>
      Bool.eq_false_iff.1 (hn.unheld hsealed) (hjobs n hsealed hheld),
    fun p hp => by rw [State.AttachedAt, hstates]; exact hn.members p hp, hn.waits⟩

/-- A port whose state changes leaves the waiting set it is in, whatever becomes of the binder counts. -/
theorem commitControl_of_left {p : PortId} {st : PortState} {v : State} {n : SlotId} (h : s.CommitControl)
    (hv : ∀ m : SlotId, ∃ k, v.slot m = { s.slot m with binders := k }) (hbound : ∀ m, n ≠ m → ¬ s.AttachedAt m p)
    (hslots : t.slots = (v.leaveWaiting p n).slots) (hjobs : t.jobs = s.jobs)
    (hs : t.states = Function.update s.states p st) : t.CommitControl := by
  intro m
  have hheld : t.loadHeld m = s.loadHeld m := by unfold State.loadHeld; rw [hjobs]
  have hmember : ∀ q, q ≠ p → s.AttachedAt m q → t.AttachedAt m q := by
    rintro q hq ⟨b, hb, hm⟩
    exact ⟨b, by rw [hs, Function.update_of_ne hq, hb], hm⟩
  obtain ⟨k, hk⟩ := hv m
  have hvm : (v.slot m).CommitSound (s.loadHeld m) (s.AttachedAt m) := by
    obtain ⟨hequal, hunheld, hmembers, hwaits⟩ := h m
    rw [hk]
    exact ⟨hequal, hunheld, hmembers, hwaits⟩
  rw [hheld, slot_of_slots hslots]
  by_cases e : n = m
  · subst e
    exact commitSound_of_left hvm (leftBy_leaveWaiting v p n) hmember
  · rw [slot_leaveWaiting_of_ne v p e]
    refine commitSound_of_left hvm (.stays fun hmem => hbound m e (hvm.members p hmem)) hmember

theorem slot_modifySlot_binders (s : State) (n : SlotId) (f : Nat → Nat) (m : SlotId) :
    ∃ k, (s.modifySlot n fun x => { x with binders := f x.binders }).slot m = { s.slot m with binders := k } := by
  by_cases e : n = m
  · subst e
    exact ⟨_, slot_modifySlot_self ..⟩
  · exact ⟨_, slot_modifySlot_of_ne s _ e⟩

/-- R86, R109: a port that loses its binding is no longer waited for. -/
theorem commitControl_detach {p : PortId} {st : PortState} (h : s.CommitControl) :
    (s.detach p st).CommitControl := by
  cases hbound : (s.states p).boundSlot? with
  | none =>
    have hnone : ∀ b, s.states p ≠ .attached b := fun b hb => by simp [hb, PortState.boundSlot?, PortState.binding?] at hbound
    rw [detach_of_unbound hbound]
    exact commitControl_of_update h rfl rfl (states_modifyPort s p ({ · with state := st })) fun b hb => absurd hb (hnone b)
  | some n =>
    refine commitControl_of_left (v := (s.modifyPort p ({ · with state := st })).lowerBinders n) (n := n) h
      (slot_modifySlot_binders (s.modifyPort p ({ · with state := st })) n (· - 1)) ?_ ?_ (by simp) (states_detach s p st)
    · rintro m hne ⟨b, hb, rfl⟩
      rw [hb] at hbound
      exact hne (Option.some.inj hbound).symm
    · rw [detach_of_bound hbound]

theorem commitControl_enterFenced {p : PortId} {cause : Option LeaseKind} (h : s.CommitControl) :
    (s.enterFenced p cause).CommitControl := by
  have hanswered : ((s.modifyPort p (·.answerFenced)).retireAccess p).CommitControl :=
    commitControl_of_frames h rfl rfl (by simp)
  unfold State.enterFenced
  refine commitControl_of_frames (commitControl_detach (p := p) (st := .fenced) hanswered) ?_ ?_ ?_
  · simp
  · simp
  · refine (states_of_bodies (bodies_raise ..)).trans ((states_of_bodies (bodies_recordViolation ..)).trans ?_)
    exact states_endRoles ..

/-- R98: whether a completion is owed does not matter to commit control. -/
theorem commitSound_disown {m : MapSlot} {p : PortId} {held held' : Bool} {Member : PortId → Prop}
    (h : m.CommitSound held Member) (hheld : held' = held) :
    MapSlot.CommitSound { m with condition := m.condition.disown p } held' Member := by
  subst hheld
  cases hc : m.condition with
  | clean =>
    exact commitSound_of_not_sealed (.inr ⟨rfl, h.equal hc⟩)
  | dirty => exact commitSound_of_not_sealed (.inl rfl)
  | sealed c =>
    have hboundary : (if c.issuer.port = p then { c with owed := false } else c).boundary = c.boundary := by split <;> rfl
    refine ⟨nofun, fun _ => h.unheld (by rw [hc]; rfl), fun q hq => h.members q ?_, fun d hd => ?_⟩
    · rw [hc]
      simp only [Condition.disown, Condition.waiting, hboundary] at hq
      exact hq
    · have hwaits := h.waits c hc
      obtain rfl := Condition.sealed.inj hd
      unfold PendingCommit.reached at hwaits ⊢
      simp only [hboundary]
      exact hwaits

theorem loadHeld_disown (s : State) (p : PortId) (n : SlotId) : (s.disown p).loadHeld n = s.loadHeld n := by
  simp only [State.loadHeld, State.disown, List.any_map, Function.comp_def]
  congr 1
  funext j
  unfold Job.disown
  split <;> rfl

theorem commitControl_resetAccesses {p : PortId} (h : s.CommitControl) : (s.resetAccesses p).CommitControl := by
  intro n
  have hslot : (s.resetAccesses p).slot n = { s.slot n with condition := (s.slot n).condition.disown p } := by
    simp [State.resetAccesses, State.disown]
  have hmember : (s.resetAccesses p).AttachedAt n = s.AttachedAt n := by
    unfold State.AttachedAt
    rw [states_resetAccesses]
  rw [hslot, hmember]
  exact commitSound_disown (h n) (loadHeld_disown s p n)

theorem commitControl_portReset {p : PortId} (h : s.CommitControl) (hreset : exec (.portReset p) s = .next t) :
    t.CommitControl := by
  obtain rfl := Host.Outcome.next.inj ((exec_portReset s p).symm.trans hreset)
  have hstate : ((s.resetAccesses p).resetState p).CommitControl := by
    have haccesses := commitControl_resetAccesses (p := p) h
    cases hbound : (s.resetAccesses p).ports[p].state.boundSlot? with
    | none => rwa [resetState_of_unbound hbound]
    | some n =>
      rw [resetState_of_bound hbound]
      exact commitControl_detach (commitControl_of_frames haccesses rfl rfl rfl)
  refine commitControl_of_frames hstate (State.endRoles_slots ..) (State.endRoles_jobs ..) ?_
  have hclear (u : State) : (u.modifyPort p (·.clearFlags)).states = u.states :=
    (states_modifyPort ..).trans (update_states_self ..)
  have haccept (u : State) : (u.modifyPort p (·.acceptHeld)).states = u.states := by simp
  rw [haccept, hclear, states_endRoles]

end Keep

/-! ## The load queue -/

theorem any_slot_startHead (jobs : List Job) (n : SlotId) :
    (startHead jobs).any (·.slot = n) = jobs.any (·.slot = n) := by
  cases jobs with
  | nil => rfl
  | cons j rest =>
    rw [startHead]
    split <;> rfl

/-- R72: the jobs that stay are those that stood, but for the abort mark. -/
theorem any_slot_abortSweep (n m : SlotId) (jobs : List Job) (h : (abortSweep n jobs).stay.any (·.slot = m) = true) :
    jobs.any (·.slot = m) = true := by
  induction jobs with
  | nil => exact h
  | cons j rest ih =>
    rw [List.any_cons, Bool.or_eq_true]
    by_cases hs : j.slot = n
    · cases hstep : j.abortStep with
      | ends done =>
        rw [abortSweep_cons_of_ends hs hstep] at h
        exact .inr (ih h)
      | passes =>
        rw [abortSweep_cons_of_passes hs hstep, List.any_cons, Bool.or_eq_true] at h
        exact h.imp_right ih
      | marks k =>
        rw [abortSweep_cons_of_marks hs hstep, List.any_cons, Bool.or_eq_true] at h
        have hk : k.slot = j.slot := by
          unfold Job.abortStep at hstep
          split at hstep
          all_goals cases hstep
          rfl
        rw [hk] at h
        exact h.imp_right ih
    · rw [abortSweep_cons_of_other hs, List.any_cons, Bool.or_eq_true] at h
      exact h.imp_right ih

theorem any_slot_answeredJobs {jobs jobs' : List Job} (h : AnsweredJobs jobs jobs') (n : SlotId)
    (hn : jobs'.any (·.slot = n) = true) : jobs.any (·.slot = n) = true := by
  cases h with
  | ended =>
    rw [any_slot_startHead] at hn
    rw [List.any_cons, hn, Bool.or_true]
  | next => exact hn
  | stays => exact hn

theorem loadHeld_grantLoad (s : State) (q : Fin 7) (number : TxnId) (n : SlotId) :
    (s.grantLoad q number).loadHeld n = s.loadHeld n := by
  obtain h | ⟨j, rest, done, hjobs, -, h⟩ := grantLoad_cases s q number
  · rw [h]
  · simp [h, State.loadHeld, State.send, hjobs]

@[simp] theorem grantPort_jobs (s : State) (q : Fin 7) (p : PortId) (number : TxnId) :
    (s.grantPort q p number).jobs = s.jobs := by
  unfold State.grantPort
  split <;> rfl

/-! ## The parts -/

/-- R83: the answer to an access leaves its map slot as commit control keeps it: the boundary is tested in the same happening. -/
theorem commitSound_of_answered {m m' : MapSlot} {held : Bool} {Member : PortId → Prop} (h : m.CommitSound held Member)
    (hm : m.AnsweredTo m') : m'.CommitSound held Member := by
  cases hm with
  | stays hwaits => exact ⟨h.equal, h.unheld, h.members, hwaits⟩
  | swaps => exact commitSound_of_not_sealed (.inr ⟨rfl, rfl⟩)

/-- R7, R83: a DRAIN boundary that an issue moves further away. -/
theorem commitSound_of_issued {m : MapSlot} {held : Bool} {Member : PortId → Prop} (h : m.CommitSound held Member) :
    MapSlot.CommitSound { m with inFlight := m.inFlight + 1 } held Member := by
  refine ⟨h.equal, h.unheld, h.members, fun c hc => ?_⟩
  have hwaits := h.waits c hc
  unfold PendingCommit.reached at hwaits ⊢
  cases hb : c.boundary with
  | drain => simp
  | mark waiting => rwa [hb] at hwaits

section Parts
variable {s : State} {p : PortId}

theorem commitControl_issued {k : AccId} {a : Access} {n : SlotId} {frame : Frame} (h : s.CommitControl) :
    (s.issueAccess p k a n frame).CommitControl := by
  have hslots : (s.issueAccess p k a n frame).slots = (s.raiseInFlight n).slots := rfl
  refine commitControl_of_slot (n := n) h (fun m hne => ?_) ?_ rfl (states_issueAccess ..)
  · rw [slot_of_slots hslots]
    exact slot_modifySlot_of_ne s _ hne
  · rw [slot_of_slots hslots, State.raiseInFlight, slot_modifySlot_self]
    exact commitSound_of_issued (h n)

/-- R86: a member that leaves, in whatever way, leaves the rest of the set. -/
theorem commitControl_leaveWaiting (h : s.CommitControl) (n : SlotId) : (s.leaveWaiting p n).CommitControl :=
  commitControl_of_slot (n := n) h (fun _ hne => slot_leaveWaiting_of_ne s p hne)
    (commitSound_of_left (h n) (leftBy_leaveWaiting s p n) fun _ _ => id) (State.leaveWaiting_jobs ..) (states_leaveWaiting ..)

/-- R86: a port whose binding stays on its slot, or moves, or that stalls, leaves that slot's waiting set. -/
theorem commitControl_of_attached {t v : State} {b : Binding} {st : PortState} (h : s.CommitControl)
    (hstate : s.ports[p].state = .attached b) (hv : ∀ m : SlotId, ∃ k, v.slot m = { s.slot m with binders := k })
    (ht : t = v.leaveWaiting p b.slot) (hjobs : v.jobs = s.jobs) (hs : v.states = Function.update s.states p st) :
    t.CommitControl := by
  subst ht
  refine commitControl_of_left h hv ?_ rfl ((State.leaveWaiting_jobs ..).trans hjobs) ((states_leaveWaiting ..).trans hs)
  rintro m hne ⟨b', hb', rfl⟩
  exact hne (congrArg Binding.slot (PortState.attached.inj (hstate.symm.trans hb')))

theorem commitControl_stalled {k : AccId} {a : Access} {b : Binding} {kind : FaultKind} (h : s.CommitControl)
    (hstate : s.ports[p].state = .attached b) : (s.stallPort p k a b kind).CommitControl := by
  have hs := states_stallPort s p k a b kind
  unfold State.stallPort at hs ⊢
  rw [states_leaveWaiting] at hs
  refine commitControl_of_attached h hstate (fun m => ⟨(s.slot m).binders, ?_⟩) rfl (State.joinFault_jobs ..) hs
  exact slot_of_slots (State.joinFault_slots ..) m

theorem commitControl_rebound {b b' : Binding} (h : s.CommitControl) (hstate : s.ports[p].state = .attached b) :
    State.CommitControl
      ((((s.modifyPort p ({ · with state := .attached b' })).lowerBinders b.slot).raiseBinders b'.slot).leaveWaiting p
        b.slot) := by
  refine commitControl_of_attached h hstate (fun m => ?_) rfl rfl (states_modifyPort s p ({ · with state := .attached b' }))
  obtain ⟨k, hk⟩ := slot_modifySlot_binders (s.modifyPort p ({ · with state := .attached b' })) b.slot (· - 1) m
  obtain ⟨l, hl⟩ := slot_modifySlot_binders ((s.modifyPort p ({ · with state := .attached b' })).lowerBinders b.slot) b'.slot
    (· + 1) m
  exact ⟨l, hl.trans (congrArg (fun x : MapSlot => { x with binders := l }) hk)⟩

/-- A DETACHED port is ATTACHED: it was waited for nowhere. -/
theorem commitControl_bound {b : Binding} (h : s.CommitControl) (hstate : s.ports[p].state = .detached) :
    State.CommitControl ((s.modifyPort p ({ · with state := .attached b })).raiseBinders b.slot) := by
  have hports : State.CommitControl (s.modifyPort p ({ · with state := .attached b })) :=
    commitControl_of_update h rfl rfl (states_modifyPort s p ({ · with state := .attached b }))
      fun b' hb' => PortState.noConfusion (hstate.symm.trans hb')
  refine commitControl_modifySlot hports ?_
  obtain ⟨hequal, hunheld, hmembers, hwaits⟩ := hports b.slot
  exact ⟨hequal, hunheld, hmembers, hwaits⟩

end Parts

/-- Each part keeps every slot: swaps and edits leave it unsealed, a COMMIT seals it with no load job and short of its boundary, and
ports that stop being ATTACHED leave its waiting set. -/
theorem commitControl_part {E C : Prop} {s t : State} (hpart : Part E C s t) (h : s.CommitControl) : t.CommitControl := by
  cases hpart
  case control hc _ => exact commitControl_of_frames h hc.slots hc.jobs (states_of_bodies hc.bodies)
  case requested | delivered | headAnswered | portGranted | leaseParamsSet | rightsMoved =>
    exact commitControl_of_frames h (by simp) (by simp) (by simp)
  case configured => exact h
  case headIssued => exact commitControl_issued h
  case headStalled hstate => exact commitControl_stalled h hstate
  case loadGranted =>
    exact commitControl_of_jobs h (by simp) (fun n _ hheld => by rwa [loadHeld_grantLoad] at hheld) (by simp)
  case accessAnswered p k through m _ _ hm =>
    refine commitControl_of_slot (n := through) h (fun m hne => slot_modifySlot_of_ne _ _ hne) ?_ rfl ?_
    · rw [slot_modifySlot_self]
      exact commitSound_of_answered (h through) hm
    · exact states_of_update_of_state (s := s) (bodies_modifyPort { s with mem := _ } p (·.placeAnswer k _ _))
        (placeAnswer_state ..)
  case loadAnswered hjobs => exact commitControl_of_jobs h rfl (fun n _ => any_slot_answeredJobs hjobs n) rfl
  case loadsAborted n =>
    refine commitControl_of_jobs h rfl (fun m _ hheld => ?_) rfl
    rw [State.loadHeld, any_slot_startHead] at hheld
    exact any_slot_abortSweep n m s.jobs hheld
  case loadAccepted j hslot _ _ _ =>
    refine commitControl_of_jobs h rfl (fun m hsealed hheld => ?_) rfl
    rw [State.loadHeld, any_slot_startHead, List.any_append, Bool.or_eq_true] at hheld
    refine hheld.resolve_right fun hj => ?_
    have hj : j.slot = m := by simpa using hj
    subst hj
    exact Bool.noConfusion (hsealed.symm.trans hslot)
  case edited hE hedit => exact commitControl_modifySlot h (commitSound_of_not_sealed hedit)
  case committed n c _ hload hreached hwaiting =>
    refine commitControl_modifySlot h ⟨nofun, fun _ => hload, fun p hp => ?_, fun d hd => ?_⟩
    · obtain ⟨d, waiting, hd, hmark, hp⟩ := (mem_waiting_iff _ p).1 hp
      obtain rfl := Condition.sealed.inj hd
      rw [hwaiting waiting hmark, mem_attachedTo] at hp
      exact hp
    · obtain rfl := Condition.sealed.inj hd
      exact hreached
  case swapped => exact commitControl_modifySlot h (commitSound_of_not_sealed (.inr ⟨rfl, rfl⟩))
  case unsealed => exact commitControl_modifySlot h (commitSound_of_not_sealed (.inl rfl))
  case waitingLeft p n => exact commitControl_leaveWaiting h n
  case leaseCounted p b hstate _ =>
    refine commitControl_of_update h rfl rfl (states_modifyPort ..) fun b' hb' => ?_
    obtain rfl := PortState.attached.inj (hstate.symm.trans hb')
    exact ⟨_, countTick_state .., rfl⟩
  case leaseRenewed hstate =>
    refine commitControl_of_update h rfl rfl (states_modifyPort ..) fun b' hb' => ?_
    obtain rfl := PortState.attached.inj (hstate.symm.trans hb')
    exact ⟨_, rfl, rfl⟩
  case timerLowered hstate _ _ =>
    exact commitControl_of_update h rfl rfl (states_modifyPort ..)
      fun b' hb' => PortState.noConfusion (hstate.symm.trans hb')
  case stallEnded hstate _ =>
    exact commitControl_of_update h (State.endStall_slots ..) (State.endStall_jobs ..) (states_endStall s _ hstate)
      fun b' hb' => PortState.noConfusion (hstate.symm.trans hb')
  case unfenced hstate =>
    exact commitControl_of_update h rfl rfl (states_modifyPort ..)
      fun b' hb' => PortState.noConfusion (hstate.symm.trans hb')
  case bound q n hstate => exact commitControl_bound (b := { slot := n, lease := s.ports[q].params.start }) h hstate
  case rebound q b n hstate _ => exact commitControl_rebound (b' := { b with slot := n }) h hstate
  case unbound => exact commitControl_detach h
  case fenced => exact commitControl_enterFenced h
  case portReset hreset => exact commitControl_portReset h hreset
  case deviceReset =>
    have hsound : State.reset.CommitControl := (commitControl_iff _).2 ⟨resetIsSound.cleanAreEqual,
      resetIsSound.sealedNotLoadHeld, resetIsSound.waitersBound, resetIsSound.noSwapDue⟩
    exact commitControl_of_frames hsound rfl rfl (states_deviceReset s)
  case poweredUp =>
    exact (commitControl_iff _).2 ⟨resetIsSound.cleanAreEqual, resetIsSound.sealedNotLoadHeld, resetIsSound.waitersBound,
      resetIsSound.noSwapDue⟩

/-- Settles O8: slot by slot, what every part keeps every step keeps. -/
theorem commitControlKept : Obligations.CommitControlKept := by
  intro s t hs h
  rw [← commitControl_iff] at hs ⊢
  exact step_keep (fun _ _ => commitControl_part) hs h

end Sys2Proof.Machine
end

section
/-! What the end of a port's roles leaves of the holdings (R163, R164), and the invariant of the roles: O9. -/

namespace Sys2Proof.Machine

/-! ## The end of a port's roles -/

section RolesEnded
variable {s t : State} {p : PortId}

theorem rolesEnded_congr (hr : t.rights = s.rights) (hst : ∀ q, q ≠ p → t.states q = s.states q) :
    t.rolesEnded p = s.rolesEnded p := by
  unfold State.rolesEnded
  rw [hr]
  split
  case isFalse => rfl
  cases s.rights.standby with
  | none => rfl
  | some b =>
    by_cases hb : b = p
    · simp [hb]
    · have hstate : t.ports[b].state = s.ports[b].state := hst b hb
      simp only [hstate]

/-- A port that is not ATTACHED cannot succeed itself, so that the holdings afterwards are those of R163 and R164. -/
theorem endRoles_eq (h : (s.states p).isAttached = false) : s.endRoles p = s.moveRights (s.rolesEnded p) := by
  unfold State.endRoles State.rolesEnded
  by_cases hp : s.rights.holder = some p
  · rw [if_pos (isSupervisor_of_holder hp), if_pos hp]
    unfold State.succession State.port
    cases s.rights.standby with
    | none => rfl
    | some b =>
      have hself : s.ports[b].state.isAttached = true → b ≠ p := by
        rintro hb rfl
        exact Bool.false_ne_true (h.symm.trans hb)
      by_cases hb : s.ports[b].state.isAttached = true
      · dsimp only
        rw [if_pos hb, if_pos ⟨hself hb, hb⟩]
      · dsimp only
        rw [if_neg hb, if_neg fun h => hb h.2]
  · rw [if_neg (by simp [isSupervisor_of_not_holder hp]), if_neg hp]

theorem endRoles_rights (h : (s.states p).isAttached = false) : (s.endRoles p).rights = s.rolesEnded p := by
  rw [endRoles_eq h]
  rfl

theorem enterFenced_rights (s : State) (p : PortId) (cause : Option LeaseKind) :
    (s.enterFenced p cause).rights = s.rolesEnded p := by
  unfold State.enterFenced
  rw [State.modifyPort_rights, State.recordViolation_rights, endRoles_rights]
  · refine rolesEnded_congr (State.detach_rights ..) fun q hq => ?_
    rw [states_detach, Function.update_of_ne hq, states_retireAccess, states_modifyPort, Function.update_of_ne hq]
  · rw [states_detach, Function.update_self]
    rfl

theorem afterReset_isAttached (st : PortState) : st.afterReset.isAttached = false := by cases st <;> rfl

theorem resetState_rights (s : State) (p : PortId) : (s.resetState p).rights = s.rights := by
  unfold State.resetState
  split <;> simp

theorem portReset_rights (h : exec (.portReset p) s = .next t) : t.rights = s.rolesEnded p := by
  obtain rfl := Host.Outcome.next.inj ((exec_portReset s p).symm.trans h)
  rw [State.modifyPort_rights, State.modifyPort_rights, endRoles_rights]
  · refine rolesEnded_congr (resetState_rights _ p) fun q hq => ?_
    rw [states_resetState, Function.update_of_ne hq, states_resetAccesses]
  · rw [states_resetState, Function.update_self]
    exact afterReset_isAttached _

end RolesEnded

/-! ## The roles agree with the states of the ports -/

/-- R157, R163, R164, over the holdings and the states of the ports. -/
def Holdings.Fits (h : Holdings) (states : PortId → PortState) : Prop :=
  (∀ p : PortId, h.holder = some p → h.standby ≠ some p ∧ h.offer ≠ some p) ∧ (h.holder = none → h.offer = none) ∧
    ∀ p : PortId, (states p).isFenced = true → h.holder ≠ some p ∧ h.standby ≠ some p ∧ h.offer ≠ some p

theorem rolesSound_iff (s : State) : s.RolesSound ↔ s.rights.Fits s.states := Iff.rfl

section Fits
variable {h : Holdings} {states states' : PortId → PortState}

/-- The holdings stay as they are while no port becomes FENCED. -/
theorem Holdings.Fits.mono (hfit : h.Fits states) (hst : ∀ q, (states' q).isFenced = true → (states q).isFenced = true) :
    h.Fits states' := by
  obtain ⟨hsup, hoffer, hfenced⟩ := hfit
  exact ⟨hsup, hoffer, fun q hq => hfenced q (hst q hq)⟩

theorem Holdings.Fits.update {p : PortId} {st : PortState} (hfit : h.Fits states) (hst : st.isFenced = false) :
    h.Fits (Function.update states p st) := by
  refine hfit.mono fun q hq => ?_
  rw [Function.update_apply] at hq
  split at hq
  · exact absurd hq (Bool.eq_false_iff.1 hst)
  · exact hq

theorem holder_eq_none_iff (h : Holdings) : h.holder = none ↔ h.supervisor = none := by simp [Holdings.holder]

/-- R163, R164: a port without any role may be FENCED. -/
theorem rolesEnded_fits {s : State} {p : PortId} {st : PortState} (hs : s.RolesSound) :
    (s.rolesEnded p).Fits (Function.update s.states p st) := by
  obtain ⟨hsup, hoffer, hfenced⟩ := hs
  have hother {q : PortId} (hq : (Function.update s.states p st q).isFenced = true) (hne : q ≠ p) :=
    hfenced q (by rwa [Function.update_of_ne hne] at hq)
  unfold State.rolesEnded
  split
  case isTrue hp =>
    cases hb : s.rights.standby with
    | none => exact ⟨nofun, fun _ => rfl, fun _ _ => ⟨nofun, nofun, nofun⟩⟩
    | some b =>
      have hbp : b ≠ p := fun e => (hsup p hp).1 (e ▸ hb)
      dsimp only
      split
      case isTrue hatt =>
        obtain ⟨-, hatt⟩ := hatt
        refine ⟨fun _ _ => ⟨nofun, nofun⟩, nofun, fun q hq => ⟨fun e => ?_, nofun, nofun⟩⟩
        obtain rfl : b = q := Option.some.inj e
        exact (hother hq hbp).2.1 hb
      case isFalse =>
        refine ⟨nofun, fun _ => rfl, fun q hq => ⟨nofun, fun e => ?_, nofun⟩⟩
        obtain rfl : b = q := Option.some.inj e
        exact (hother hq hbp).2.1 hb
  case isFalse hp =>
    refine ⟨fun q hq => ?_, fun hnone => ?_, fun q hq => ?_⟩
    · have := hsup q hq
      exact ⟨by dsimp only; split <;> simp_all, by dsimp only; split <;> simp_all⟩
    · have := hoffer hnone
      simp [this]
    · by_cases e : q = p
      · subst e
        exact ⟨hp, by dsimp only; split <;> simp_all, by dsimp only; split <;> simp_all⟩
      · obtain ⟨h1, h2, h3⟩ := hother hq e
        exact ⟨h1, by dsimp only; split <;> simp_all, by dsimp only; split <;> simp_all⟩

theorem standbyWithout_ne (h : Holdings) (p : PortId) : h.standbyWithout p ≠ some p := by
  unfold Holdings.standbyWithout
  split <;> simp_all

theorem standbyWithout_eq_some {p q : PortId} (hq : h.standbyWithout p = some q) : h.standby = some q := by
  unfold Holdings.standbyWithout at hq
  split at hq
  · cases hq
  · exact hq

/-- R160 to R162, R165: what a command of chapter 9 makes of the holdings. -/
theorem newRights_fits {s : State} (hs : s.RolesSound) (hnew : s.NewRights h) : h.Fits s.states := by
  obtain ⟨hsup, hoffer, hfenced⟩ := hs
  cases hnew with
  | standby hb =>
    refine ⟨fun p hp => ⟨fun e => (hb p e).1 hp, (hsup p hp).2⟩, hoffer, fun p hp => ?_⟩
    exact ⟨(hfenced p hp).1, fun e => (hb p e).2 ((isFenced_iff _).1 hp), (hfenced p hp).2.2⟩
  | offer hp hq hf =>
    refine ⟨fun p' hp' => ⟨(hsup p' hp').1, fun e => ?_⟩, fun hnone => absurd (hp.symm.trans hnone) nofun, fun p' hp' => ?_⟩
    · obtain rfl := Option.some.inj e
      exact hq hp'
    · refine ⟨(hfenced p' hp').1, (hfenced p' hp').2.1, fun e => ?_⟩
      obtain rfl := Option.some.inj e
      exact hf ((isFenced_iff _).1 hp')
  | accept hoff =>
    refine ⟨fun p hp => ?_, nofun, fun p hp => ⟨fun e => ?_, fun e => ?_, nofun⟩⟩
    · obtain rfl := Option.some.inj hp
      exact ⟨standbyWithout_ne _ _, nofun⟩
    · obtain rfl := Option.some.inj e
      exact (hfenced _ hp).2.2 hoff
    · exact (hfenced p hp).2.1 (standbyWithout_eq_some e)
  | claim hvacant hatt =>
    have hnone := hoffer ((holder_eq_none_iff _).2 hvacant)
    refine ⟨fun p hp => ?_, nofun, fun p hp => ⟨fun e => ?_, fun e => ?_, (hfenced p hp).2.2⟩⟩
    · obtain rfl := Option.some.inj hp
      exact ⟨standbyWithout_ne _ _, fun e => absurd (hnone.symm.trans e) nofun⟩
    · obtain rfl := Option.some.inj e
      exact PortState.noConfusion (hatt.symm.trans ((isFenced_iff _).1 hp))
    · exact (hfenced p hp).2.1 (standbyWithout_eq_some e)

end Fits

@[simp] theorem grantPort_rights (s : State) (q : Fin 7) (p : PortId) (number : TxnId) :
    (s.grantPort q p number).rights = s.rights := by
  unfold State.grantPort
  split <;> rfl

@[simp] theorem grantLoad_rights (s : State) (q : Fin 7) (number : TxnId) : (s.grantLoad q number).rights = s.rights := by
  unfold State.grantLoad
  split
  · rfl
  · split <;> rfl

section Keep
variable {s t : State}

theorem rolesSound_of_frames (h : s.RolesSound) (hr : t.rights = s.rights) (hs : t.states = s.states) : t.RolesSound := by
  rw [rolesSound_iff, hr, hs]
  exact h

/-- A port that is not FENCED afterwards changes its state alone. -/
theorem rolesSound_of_update {p : PortId} {st : PortState} (h : s.RolesSound) (hr : t.rights = s.rights)
    (hs : t.states = Function.update s.states p st) (hst : st.isFenced = false) : t.RolesSound := by
  rw [rolesSound_iff, hr, hs]
  exact Holdings.Fits.update h hst

end Keep

/-- R157 to R165: only the end of a port's roles and the commands of chapter 9 change the holdings, and only the entry into
FENCED, which ends them, makes a port FENCED. -/
theorem rolesSound_part {E C : Prop} {s t : State} (hpart : Part E C s t) (h : s.RolesSound) : t.RolesSound := by
  cases hpart
  case control hc _ => exact rolesSound_of_frames h hc.rights (states_of_bodies hc.bodies)
  case requested | delivered | headAnswered | headIssued | portGranted | loadGranted | leaseParamsSet | waitingLeft =>
    exact rolesSound_of_frames h (by simp [State.issueAccess, State.raiseInFlight, State.answerHead]) (by simp)
  case configured | loadAccepted | loadsAborted | loadAnswered | edited | committed | swapped | unsealed => exact h
  case accessAnswered p k through m _ _ hm =>
    exact rolesSound_of_frames h rfl
      (states_of_update_of_state (s := s) (bodies_modifyPort { s with mem := _ } p (·.placeAnswer k _ _))
        (placeAnswer_state ..))
  case leaseCounted => exact rolesSound_of_update h rfl (states_modifyPort ..) (by rw [countTick_state]; rfl)
  case leaseRenewed | timerLowered | unfenced => exact rolesSound_of_update h rfl (states_modifyPort ..) rfl
  case headStalled => exact rolesSound_of_update h (by simp [State.stallPort]) (states_stallPort ..) rfl
  case stallEnded hstate _ => exact rolesSound_of_update h (by simp) (states_endStall s _ hstate) rfl
  case unbound => exact rolesSound_of_update h (by simp) (states_detach ..) rfl
  case bound q n _ =>
    exact rolesSound_of_update (p := q) (st := .attached { slot := n, lease := s.ports[q.val].params.start }) h rfl (by simp) rfl
  case rebound q b n _ _ =>
    exact rolesSound_of_update (p := q) (st := .attached { b with slot := n }) h (by simp [State.raiseBinders, State.lowerBinders])
      (by simp) rfl
  case fenced =>
    rw [rolesSound_iff, enterFenced_rights, states_enterFenced]
    exact rolesEnded_fits h
  case portReset hreset =>
    rw [rolesSound_iff, portReset_rights hreset, states_portReset hreset]
    exact rolesEnded_fits h
  case rightsMoved hnew =>
    rw [rolesSound_iff, states_moveRights]
    exact newRights_fits h hnew
  case deviceReset => exact rolesSound_of_frames resetIsSound.rolesSound rfl (states_deviceReset s)
  case poweredUp => exact resetIsSound.rolesSound

/-- Settles O9: what every part keeps, every step keeps. -/
theorem rolesKept : Obligations.RolesKept := fun _ _ hs h => step_keep (fun _ _ => rolesSound_part) hs h

end Sys2Proof.Machine
end

section
/-! The bodies of the port records after a port reset and after the resets of the hub, and the invariant of leases, configuration
and stall timers: O10. -/

namespace Sys2Proof.Machine

/-! ## Bodies after a reset -/

/-- R22: what the acceptance of held requests does, it does to the body. -/
theorem acceptFrom_body (held : List HeldRequest) (r : PortRec) : (r.acceptFrom held).body = r.body.acceptFrom held := by
  induction held generalizing r with
  | nil => rfl
  | cons x rest ih =>
    have hfree : r.body.freeSlot x.pick = r.freeSlot x.pick := rfl
    unfold PortRec.acceptFrom
    rw [hfree]
    split
    · exact ih _
    · rfl

theorem acceptHeld_body (r : PortRec) : r.acceptHeld.body = r.body.acceptHeld := acceptFrom_body r.requests r

/-- The body of a port record after a reset of its port, before it accepts what its request channel holds (R113, R114). -/
def PortRec.resetBody (r : PortRec) : PortRec := { r.emptyAccesses.body with state := r.state.afterReset }

section PortReset
variable {s t : State} {p : PortId}

theorem bodies_resetAccesses (s : State) (p : PortId) :
    (s.resetAccesses p).bodies = Function.update s.bodies p s.ports[p].emptyAccesses.body := by
  have hcontrol : ((s.modifyPort p (·.emptyControl)).disown p).bodies = s.bodies :=
    bodies_modifyPort_of_body s (f := (·.emptyControl)) rfl
  have hport : ((s.modifyPort p (·.emptyControl)).disown p).ports[p] = s.ports[p].emptyControl :=
    State.ports_modifyPort_self s p (·.emptyControl)
  unfold State.resetAccesses
  rw [bodies_modifyPort, hcontrol, hport]
  rfl

theorem bodies_resetState (s : State) (p : PortId) :
    (s.resetState p).bodies = Function.update s.bodies p { s.bodies p with state := s.ports[p].state.afterReset } := by
  unfold State.resetState State.port
  cases hstate : s.ports[p].state with
  | attached | stalled => exact bodies_detach (s.retireAccess p) p .detached
  | detached | fenced =>
    have hbody : { s.bodies p with state := s.ports[p].state.afterReset } = s.bodies p :=
      (PortRec.body_eq_iff s.ports[p] { s.bodies p with state := s.ports[p].state.afterReset }).2
        ⟨by rw [hstate]; rfl, rfl, rfl, rfl, rfl⟩
    rw [hstate] at hbody
    rw [hbody]
    exact (Function.update_eq_self p s.bodies).symm

/-- R113, R114: of the bodies a port reset changes that of its port. -/
theorem bodies_portReset (h : exec (.portReset p) s = .next t) :
    t.bodies = Function.update s.bodies p s.ports[p].resetBody.acceptHeld := by
  obtain rfl := Host.Outcome.next.inj ((exec_portReset s p).symm.trans h)
  have hbodies : ((((s.resetAccesses p).resetState p).endRoles p).modifyPort p (·.clearFlags)).bodies =
      Function.update s.bodies p s.ports[p].resetBody := by
    have hstate : (s.resetAccesses p).ports[p].state = s.ports[p].state := congrFun (states_resetAccesses s p) p
    rw [bodies_modifyPort_of_body (f := (·.clearFlags)) _ rfl, bodies_endRoles, bodies_resetState, bodies_resetAccesses,
      Function.update_idem, Function.update_self, hstate]
    rfl
  have hp := congrFun hbodies p
  rw [Function.update_self] at hp
  rw [bodies_modifyPort, hbodies, Function.update_idem, acceptHeld_body]
  exact congrArg (fun r => Function.update s.bodies p (PortRec.acceptHeld r)) hp

end PortReset

/-- A device reset leaves each port as reset left it, but for what it then accepts from its request channel (R22, R24). -/
theorem bodies_deviceReset (s : State) (p : PortId) :
    s.deviceReset.acceptAll.bodies p = PortRec.acceptHeld { PortRec.reset with requests := s.ports[p].requests } := by
  have hport : s.deviceReset.acceptAll.ports[p] = PortRec.acceptHeld { PortRec.reset with requests := s.ports[p].requests } := by
    simp [State.acceptAll, State.deviceReset]
  exact (congrArg PortRec.body hport).trans (acceptHeld_body _)

theorem bodies_reset (p : PortId) : State.reset.bodies p = PortRec.reset := congrArg PortRec.body (reset_port p)

/-! ## Leases, configuration and stall timers -/

/-- R151 for one port, at a stall limit. -/
def PortState.TimerSound (limit : Nat) : PortState → Prop
  | .stalled _ st => match st.timer with
    | none => limit = 0
    | some n => 1 ≤ n ∧ n ≤ limit
  | .detached | .attached _ | .fenced => True

/-- R119, R120, R151 for one port, at a stall limit. -/
structure PortRec.Timing (limit : Nat) (r : PortRec) : Prop where
  min : Config.minPeriod ≤ r.params.period
  max : r.params.period ≤ Config.maxPeriod
  lease : r.LeaseSound
  timer : r.state.TimerSound limit

/-- R119, R120, R151, R178: the three invariants in one. -/
structure State.Timing (s : State) : Prop where
  configuration : s.ConfigurationSound
  ports : ∀ p : PortId, (s.bodies p).Timing s.stallLimit

theorem timing_iff (s : State) : s.Timing ↔ s.LeasesSound ∧ s.ConfigurationSound ∧ s.TimersSound := by
  constructor
  · rintro ⟨hconf, hports⟩
    exact ⟨fun p => ⟨(hports p).min, (hports p).max, (hports p).lease⟩, hconf, fun p => (hports p).timer⟩
  · rintro ⟨hleases, hconf, htimers⟩
    refine ⟨hconf, fun p => ?_⟩
    obtain ⟨hmin, hmax, hlease⟩ := hleases p
    exact ⟨hmin, hmax, hlease, htimers p⟩

section PortTiming
variable {limit : Nat} {r r' : PortRec} {b : Binding}

theorem leaseSound_congr (hst : r'.state = r.state) (hp : r'.params = r.params) : r'.LeaseSound ↔ r.LeaseSound := by
  unfold PortRec.LeaseSound
  rw [hst, hp]

/-- The access slots do not matter. -/
theorem PortRec.Timing.congr (h : r.Timing limit) (hst : r'.state = r.state) (hp : r'.params = r.params) :
    r'.Timing limit where
  min := hp ▸ h.min
  max := hp ▸ h.max
  lease := (leaseSound_congr hst hp).2 h.lease
  timer := hst ▸ h.timer

theorem leaseSound_of_unbound (h : r.state.isBound = false) : r.LeaseSound := by
  unfold PortRec.LeaseSound
  cases hs : r.state with
  | detached | fenced => trivial
  | attached | stalled => exact absurd h (by simp [hs, PortState.isBound, PortState.binding?])

theorem timerSound_of_unbound {st : PortState} (limit : Nat) (h : st.isBound = false) : st.TimerSound limit := by
  cases st with
  | detached | attached | fenced => trivial
  | stalled => exact absurd h nofun

/-- A port that takes a state without a binding. -/
theorem PortRec.Timing.unbound (h : r.Timing limit) (hp : r'.params = r.params) (hst : r'.state.isBound = false) :
    r'.Timing limit :=
  ⟨hp ▸ h.min, hp ▸ h.max, leaseSound_of_unbound hst, timerSound_of_unbound limit hst⟩

theorem PortRec.Timing.attached (h : r.Timing limit) (hp : r'.params = r.params) (hst : r'.state = .attached b)
    (hphase : b.lease.phase ≠ .frozen) (hone : 1 ≤ b.lease.remaining) (hle : b.lease.remaining ≤ r.params.period) :
    r'.Timing limit := by
  refine ⟨hp ▸ h.min, hp ▸ h.max, ?_, hst ▸ trivial⟩
  unfold PortRec.LeaseSound
  rw [hst, hp]
  exact ⟨hphase, hone, hle⟩

theorem PortRec.Timing.stalled {st : Stall} (h : r.Timing limit) (hp : r'.params = r.params) (hst : r'.state = .stalled b st)
    (hphase : b.lease.phase = .frozen) (hone : 1 ≤ b.lease.remaining) (hle : b.lease.remaining ≤ r.params.period)
    (htimer : (PortState.stalled b st).TimerSound limit) : r'.Timing limit := by
  refine ⟨hp ▸ h.min, hp ▸ h.max, ?_, hst ▸ htimer⟩
  unfold PortRec.LeaseSound
  rw [hst, hp]
  exact ⟨hphase, hone, hle⟩

theorem PortRec.Timing.lease_of_attached (h : r.Timing limit) (hst : r.state = .attached b) :
    b.lease.phase ≠ .frozen ∧ 1 ≤ b.lease.remaining ∧ b.lease.remaining ≤ r.params.period := by
  have hlease := h.lease
  unfold PortRec.LeaseSound at hlease
  rwa [hst] at hlease

theorem PortRec.Timing.lease_of_stalled {st : Stall} (h : r.Timing limit) (hst : r.state = .stalled b st) :
    b.lease.phase = .frozen ∧ 1 ≤ b.lease.remaining ∧ b.lease.remaining ≤ r.params.period := by
  have hlease := h.lease
  unfold PortRec.LeaseSound at hlease
  rwa [hst] at hlease

theorem PortRec.Timing.one_le_period (h : r.Timing limit) : 1 ≤ r.params.period := Nat.le_trans (by decide) h.min

/-- R121: a lease that counts with more than one tick left. -/
theorem PortRec.Timing.countTick (h : r.Timing limit) (hst : r.state = .attached b) (hmore : b.lease.remaining - 1 ≠ 0) :
    (r.countTick b).Timing limit := by
  obtain ⟨hphase, -, hle⟩ := h.lease_of_attached hst
  refine h.attached (by rw [countTick_eq]; split <;> rfl) (countTick_state r b) ?_ (Nat.pos_of_ne_zero hmore)
    (Nat.le_trans (Nat.sub_le ..) hle)
  unfold LeaseParams.count
  dsimp only
  split
  · decide
  · exact hphase

theorem PortRec.Timing.renewed (h : r.Timing limit) (b : Binding) :
    PortRec.Timing limit { r with state := .attached { b with lease := r.params.renew b.lease } } := by
  refine h.attached rfl rfl ?_ h.one_le_period le_rfl
  unfold LeaseParams.renew
  dsimp only
  split <;> decide

theorem PortRec.Timing.stallOn (h : r.Timing limit) (k : AccId) (a : Access) (seq : BitVec 16)
    (hst : r.state = .attached b) : (r.stallOn k a b seq limit).Timing limit := by
  obtain ⟨-, hone, hle⟩ := h.lease_of_attached hst
  refine h.stalled rfl rfl rfl hone hle ?_
  unfold PortState.TimerSound
  dsimp only
  by_cases hzero : limit = 0
  · rw [if_pos hzero]
    exact hzero
  · rw [if_neg hzero]
    exact ⟨Nat.pos_of_ne_zero hzero, le_rfl⟩

end PortTiming

section Keep
variable {s t : State} {p : PortId} {r : PortRec}

theorem timing_of_frames (h : s.Timing) (hb : t.bodies = s.bodies) (hm : t.memsize = s.memsize)
    (hl : t.stallLimit = s.stallLimit) : t.Timing := by
  refine ⟨?_, fun p => hb ▸ hl ▸ h.ports p⟩
  unfold State.ConfigurationSound
  rw [hm, hl]
  exact h.configuration

theorem timing_of_update (h : s.Timing) (hb : t.bodies = Function.update s.bodies p r) (hm : t.memsize = s.memsize)
    (hl : t.stallLimit = s.stallLimit) (hr : (s.bodies p).Timing s.stallLimit → r.Timing s.stallLimit) : t.Timing := by
  refine ⟨?_, fun q => ?_⟩
  · unfold State.ConfigurationSound
    rw [hm, hl]
    exact h.configuration
  · rw [hb, hl, Function.update_apply]
    split
    · exact hr (h.ports p)
    · exact h.ports q

/-- One port record changes. -/
theorem timing_modifyPort {f : PortRec → PortRec} (h : s.Timing)
    (hf : s.ports[p].Timing s.stallLimit → (f s.ports[p]).Timing s.stallLimit) : (s.modifyPort p f).Timing :=
  timing_of_update h (bodies_modifyPort s p f) rfl rfl fun hr => (hf (hr.congr rfl rfl)).congr rfl rfl

end Keep

@[simp] theorem placeAnswer_params (r : PortRec) (k : AccId) (outcome : MemOutcome) (data : List Byte) :
    (r.placeAnswer k outcome data).params = r.params := by
  unfold PortRec.placeAnswer
  split
  · rfl
  · exact acceptHeld_params _
  · rfl

theorem bodies_of_ports {s t : State} (h : t.ports = s.ports) : t.bodies = s.bodies := by
  unfold State.bodies
  rw [h]

@[simp] theorem grantPort_configuration (s : State) (q : Fin 7) (p : PortId) (number : TxnId) :
    (s.grantPort q p number).memsize = s.memsize ∧ (s.grantPort q p number).stallLimit = s.stallLimit := by
  unfold State.grantPort
  split <;> exact ⟨rfl, rfl⟩

@[simp] theorem grantLoad_configuration (s : State) (q : Fin 7) (number : TxnId) :
    (s.grantLoad q number).memsize = s.memsize ∧ (s.grantLoad q number).stallLimit = s.stallLimit := by
  unfold State.grantLoad
  split
  · exact ⟨rfl, rfl⟩
  · split <;> exact ⟨rfl, rfl⟩

theorem configuration_portReset {s t : State} {p : PortId} (h : exec (.portReset p) s = .next t) :
    t.memsize = s.memsize ∧ t.stallLimit = s.stallLimit := by
  obtain rfl := Host.Outcome.next.inj ((exec_portReset s p).symm.trans h)
  have hstate (u : State) : (u.resetState p).memsize = u.memsize ∧ (u.resetState p).stallLimit = u.stallLimit := by
    unfold State.resetState
    split <;> simp
  exact ⟨(State.endRoles_memsize ..).trans (hstate _).1, (State.endRoles_stallLimit ..).trans (hstate _).2⟩

theorem afterReset_isBound (st : PortState) : st.afterReset.isBound = false := by cases st <;> rfl

theorem resetTiming : State.reset.Timing :=
  (timing_iff _).2 ⟨resetIsSound.leasesSound, resetIsSound.configurationSound, resetIsSound.timersSound⟩

/-- R119 to R122, R148, R151: a lease that counts stays above 0, a port becomes STALLED with a FROZEN lease and leaves the stall
with a FRESH one, and parameters and configuration change only where no binding depends on them. -/
theorem timing_part {E C : Prop} {s t : State} (hpart : Part E C s t) (h : s.Timing) : t.Timing := by
  cases hpart
  case control hc _ => exact timing_of_frames h hc.bodies hc.memsize hc.stallLimit
  case requested | delivered =>
    exact timing_modifyPort h (·.congr (acceptHeld_state _) (acceptHeld_params _))
  case headAnswered => exact timing_of_update h (bodies_answerHead ..) rfl rfl (·.congr rfl rfl)
  case headIssued => exact timing_of_update h (bodies_issueAccess ..) rfl rfl (·.congr rfl rfl)
  case headStalled hstate =>
    exact timing_of_update h (bodies_stallPort ..) (by simp [State.stallPort]) (by simp [State.stallPort])
      (·.stallOn _ _ _ hstate)
  case portGranted =>
    exact timing_of_frames h (bodies_of_ports (grantPort_ports ..)) (grantPort_configuration ..).1 (grantPort_configuration ..).2
  case loadGranted =>
    exact timing_of_frames h (bodies_of_ports (grantLoad_ports ..)) (grantLoad_configuration ..).1 (grantLoad_configuration ..).2
  case accessAnswered p k through m _ _ _ =>
    exact timing_of_update h (bodies_modifyPort { s with mem := _ } p (·.placeAnswer k _ _)) rfl rfl
      (·.congr (placeAnswer_state ..) (placeAnswer_params ..))
  case loadAnswered | loadAccepted | loadsAborted | edited | committed | swapped | unsealed =>
    exact timing_of_frames h rfl rfl rfl
  case leaseCounted hstate hmore => exact timing_modifyPort h (·.countTick hstate hmore)
  case leaseRenewed b _ => exact timing_modifyPort h (·.renewed b)
  case timerLowered b st n hstate htimer hmore =>
    refine timing_modifyPort h fun hr => ?_
    obtain ⟨hphase, hone, hle⟩ := hr.lease_of_stalled hstate
    refine hr.stalled rfl rfl hphase hone hle ?_
    have hn := hr.timer
    rw [hstate] at hn
    simp only [PortState.TimerSound, htimer] at hn
    exact ⟨Nat.pos_of_ne_zero hmore, Nat.le_trans (Nat.sub_le ..) hn.2⟩
  case fenced =>
    exact timing_of_update h (bodies_enterFenced ..) (State.enterFenced_memsize ..) (State.enterFenced_stallLimit ..)
      (·.unbound rfl rfl)
  case stallEnded hstate _ =>
    exact timing_of_update h (bodies_endStall s _ hstate) (by simp) (by simp)
      fun hr => hr.attached rfl rfl nofun hr.one_le_period le_rfl
  case bound q n _ =>
    refine timing_of_frames (s := s.modifyPort q fun r => { r with state := .attached { slot := n, lease := r.params.start } })
      ?_ rfl rfl rfl
    exact timing_modifyPort h fun hr => hr.attached rfl rfl nofun hr.one_le_period le_rfl
  case rebound q b n hstate _ =>
    refine timing_of_update (r := { s.ports[q].body with state := .attached { b with slot := n } }) h
      ((bodies_leaveWaiting ..).trans (bodies_modifyPort s q ({ · with state := .attached { b with slot := n } }))) ?_ ?_
      fun hr => ?_
    · simp [State.raiseBinders, State.lowerBinders]
    · simp [State.raiseBinders, State.lowerBinders]
    · obtain ⟨hphase, hone, hle⟩ := hr.lease_of_attached hstate
      exact hr.attached rfl rfl hphase hone hle
  case unbound => exact timing_of_update h (bodies_detach ..) (by simp) (by simp) (·.unbound rfl rfl)
  case leaseParamsSet hbound hmin hmax =>
    exact timing_modifyPort h fun hr => ⟨hmin, hmax, leaseSound_of_unbound hbound, hr.timer⟩
  case unfenced =>
    exact timing_modifyPort (s := s.retireLease _) (f := ({ · with state := .detached }))
      (timing_of_frames h rfl rfl rfl) (·.unbound rfl rfl)
  case rightsMoved => exact timing_of_frames h (bodies_moveRights ..) rfl rfl
  case waitingLeft => exact timing_of_frames h (bodies_leaveWaiting ..) (by simp) (by simp)
  case configured memsize limit hrange hbound =>
    refine ⟨by simpa [State.ConfigurationSound, configureRange, and_assoc] using hrange, fun p => ?_⟩
    have hp : s.ports[p].state.isBound = false :=
      Bool.eq_false_iff.2 fun hp => Bool.eq_false_iff.1 hbound ((anyBound_iff s).2 ⟨p, hp⟩)
    exact ⟨(h.ports p).min, (h.ports p).max, (h.ports p).lease, timerSound_of_unbound limit hp⟩
  case portReset hreset =>
    exact timing_of_update h (bodies_portReset hreset) (configuration_portReset hreset).1 (configuration_portReset hreset).2
      fun hr => hr.unbound (acceptHeld_params _) (by rw [acceptHeld_state]; exact afterReset_isBound _)
  case deviceReset =>
    refine ⟨resetTiming.configuration, fun p => (resetTiming.ports p).congr ?_ ?_⟩
    · rw [bodies_deviceReset, bodies_reset, acceptHeld_state]
    · rw [bodies_deviceReset, bodies_reset, acceptHeld_params]
  case poweredUp => exact timing_of_frames resetTiming rfl rfl rfl

/-- Settles O10: what every part keeps, every step keeps. -/
theorem leasesAndTimersKept : Obligations.LeasesAndTimersKept := fun _ _ hs h =>
  (timing_iff _).1 (step_keep (fun _ _ => timing_part) ((timing_iff _).2 hs) h)

end Sys2Proof.Machine
end

section
/-! The load queue as jobs join it, end and are aborted, and the invariant of the memory port: O11. -/

namespace Sys2Proof.Machine

/-! ## The load queue -/

/-- Whether the descriptor read of a job is OUTSTANDING. -/
def Job.isReading (j : Job) : Bool :=
  match j.state with
  | .running _ (.outstanding _) => true
  | .running _ .requested | .queued => false

/-- Whether the read of the job at the head is OUTSTANDING. -/
def headReads : List Job → Bool
  | [] => false
  | j :: _ => j.isReading

/-- R60, R61, over the load queue. -/
structure QueueSound (jobs : List Job) : Prop where
  length : jobs.length ≤ Config.loadPlaces
  sound : ∀ j ∈ jobs, j.Sound
  running : ∀ j ∈ jobs.head?, j.isRunning = true
  queued : ∀ k ∈ jobs.tail, k.state = .queued

theorem isRunning_eq_false_iff (j : Job) : j.isRunning = false ↔ j.state = .queued := by simp [Job.isRunning]

theorem loadQueueSound_iff (s : State) : s.LoadQueueSound ↔ QueueSound s.jobs := by
  unfold State.LoadQueueSound
  cases s.jobs with
  | nil => exact ⟨fun ⟨h1, h2, _⟩ => ⟨h1, h2, nofun, nofun⟩, fun h => ⟨h.length, h.sound, trivial⟩⟩
  | cons j rest =>
    constructor
    · rintro ⟨hlength, hsound, hj, hrest⟩
      exact ⟨hlength, hsound, by rintro _ ⟨⟩; exact hj, fun k hk => (isRunning_eq_false_iff k).1 (hrest k hk)⟩
    · intro h
      exact ⟨h.length, h.sound, h.running j rfl, fun k hk => (isRunning_eq_false_iff k).2 (h.queued k hk)⟩

theorem readOutstanding_eq (s : State) : s.readOutstanding = headReads s.jobs := by
  unfold State.readOutstanding
  cases s.jobs <;> rfl

section Queue
variable {j k : Job} {rest : List Job}

theorem isReading_of_running {done : Nat} {m : Bool} (h : j.state = .running done (.outstanding m)) : j.isReading = true := by
  unfold Job.isReading
  rw [h]

theorem isReading_of_requested {done : Nat} (h : j.state = .running done .requested) : j.isReading = false := by
  unfold Job.isReading
  rw [h]

theorem isRunning_of_running {done : Nat} {read : ReadState} (h : j.state = .running done read) : j.isRunning = true := by
  simp [Job.isRunning, h]

/-- A running head stays, whatever joins behind it. -/
theorem startHead_of_isRunning (h : j.isRunning = true) : startHead (j :: rest) = j :: rest := by
  cases hj : j.state with
  | queued => simp [Job.isRunning, hj] at h
  | running done read => exact startHead_of_running hj

/-- R65: the queue once the job at its head has left it, or has come to an empty queue. -/
theorem queueSound_startHead (hlength : rest.length ≤ Config.loadPlaces) (hsound : ∀ k ∈ rest, k.Sound)
    (hqueued : ∀ k ∈ rest, k.state = .queued) : QueueSound (startHead rest) ∧ headReads (startHead rest) = false := by
  rw [startHead_of_queued hqueued]
  cases rest with
  | nil => exact ⟨⟨hlength, nofun, nofun, nofun⟩, rfl⟩
  | cons k rest =>
    obtain ⟨hcount, hpages, -⟩ := hsound k (List.mem_cons_self ..)
    refine ⟨⟨hlength, ?_, ?_, fun x hx => hqueued x (List.mem_cons_of_mem _ hx)⟩, rfl⟩
    · intro x hx
      obtain rfl | hx := List.mem_cons.1 hx
      · exact ⟨hcount, hpages, hcount⟩
      · exact hsound x (List.mem_cons_of_mem _ hx)
    · rintro _ ⟨⟩
      rfl

/-- The job at the head changes and goes on RUNNING. -/
theorem QueueSound.changeHead (h : QueueSound (j :: rest)) (hk : k.Sound) (hrunning : k.isRunning = true) :
    QueueSound (k :: rest) := by
  refine ⟨h.length, fun x hx => ?_, by rintro _ ⟨⟩; exact hrunning, h.queued⟩
  obtain rfl | hx := List.mem_cons.1 hx
  · exact hk
  · exact h.sound x (List.mem_cons_of_mem _ hx)

theorem QueueSound.sublist {rest' : List Job} (h : QueueSound (j :: rest)) (hsub : rest'.Sublist rest) :
    QueueSound (j :: rest') where
  length := Nat.le_trans (Nat.succ_le_succ hsub.length_le) h.length
  sound x hx := h.sound x ((hsub.cons_cons j).subset hx)
  running := h.running
  queued x hx := h.queued x (hsub.subset hx)

theorem QueueSound.ended {rest' : List Job} (h : QueueSound (j :: rest)) (hsub : rest'.Sublist rest) :
    QueueSound (startHead rest') ∧ headReads (startHead rest') = false :=
  queueSound_startHead (Nat.le_trans hsub.length_le (Nat.le_of_succ_le h.length))
    (fun x hx => h.sound x (List.mem_cons_of_mem _ (hsub.subset hx))) fun x hx => h.queued x (hsub.subset hx)

/-- R62, R63: a job joins the queue. -/
theorem queueSound_accepted {jobs : List Job} (h : QueueSound jobs) (hlength : jobs.length < Config.loadPlaces) (hj : j.Sound)
    (hqueued : j.state = .queued) :
    QueueSound (startHead (jobs ++ [j])) ∧ headReads (startHead (jobs ++ [j])) = headReads jobs := by
  cases jobs with
  | nil =>
    refine queueSound_startHead hlength (fun k hk => ?_) fun k hk => ?_
    · obtain rfl := List.mem_singleton.1 hk
      exact hj
    · obtain rfl := List.mem_singleton.1 hk
      exact hqueued
  | cons x rest =>
    rw [List.cons_append, startHead_of_isRunning (h.running x rfl)]
    refine ⟨⟨by simpa using hlength, fun k hk => ?_, h.running, fun k hk => ?_⟩, rfl⟩
    · obtain hk | hk := List.mem_append.1 (List.cons_append ▸ hk : k ∈ (x :: rest) ++ [j])
      · exact h.sound k hk
      · obtain rfl := List.mem_singleton.1 hk
        exact hj
    · obtain hk | hk := List.mem_append.1 hk
      · exact h.queued k hk
      · obtain rfl := List.mem_singleton.1 hk
        exact hqueued

/-- R72: the RUNNING job stays, with or without the abort mark, or ends before its read is granted. -/
theorem abortSweep_stay_cons (n : SlotId) (hrest : ∀ k ∈ rest, k.state = .queued) (hj : j.isRunning = true) :
    (j.isReading = false ∧ (abortSweep n (j :: rest)).stay = rest.filter (·.slot ≠ n)) ∨
      ∃ k, (abortSweep n (j :: rest)).stay = k :: rest.filter (·.slot ≠ n) ∧ k.isReading = j.isReading ∧
        k.isRunning = true ∧ (j.Sound → k.Sound) := by
  have hsweep : (abortSweep n rest).stay = rest.filter (·.slot ≠ n) := by rw [abortSweep_of_queued n hrest]
  rw [← hsweep]
  by_cases hslot : j.slot = n
  case neg => exact .inr ⟨j, by rw [abortSweep_cons_of_other hslot], rfl, hj, id⟩
  cases hstate : j.state with
  | queued => simp [Job.isRunning, hstate] at hj
  | running done read =>
    cases read with
    | requested =>
      exact .inl ⟨isReading_of_requested hstate, by rw [abortSweep_cons_of_ends hslot (abortStep_of_requested hstate)]⟩
    | outstanding mark =>
      cases mark with
      | true => exact .inr ⟨j, by rw [abortSweep_cons_of_passes hslot (abortStep_of_marked hstate)], rfl, hj, id⟩
      | false =>
        refine .inr ⟨{ j with state := .running done (.outstanding true) },
          by rw [abortSweep_cons_of_marks hslot (abortStep_of_outstanding hstate)],
          (isReading_of_running hstate).symm, rfl, fun hsound => ?_⟩
        unfold Job.Sound at hsound ⊢
        rwa [hstate] at hsound

theorem queueSound_aborted {jobs : List Job} (n : SlotId) (h : QueueSound jobs) :
    QueueSound (startHead (abortSweep n jobs).stay) ∧ headReads (startHead (abortSweep n jobs).stay) = headReads jobs := by
  cases jobs with
  | nil => exact ⟨h, rfl⟩
  | cons j rest =>
    obtain ⟨hreads, hstay⟩ | ⟨k, hstay, hreads, hrunning, hsound⟩ := abortSweep_stay_cons n (rest := rest) h.queued
      (h.running j rfl)
    · rw [hstay]
      obtain ⟨hqueue, hhead⟩ := h.ended (List.filter_sublist (p := (·.slot ≠ n)))
      exact ⟨hqueue, hhead.trans hreads.symm⟩
    · rw [hstay, startHead_of_isRunning hrunning]
      exact ⟨(h.sublist List.filter_sublist).changeHead (hsound (h.sound j (List.mem_cons_self ..))) hrunning, hreads⟩

/-- R65 to R73: the RUNNING job ends or presents its next read. -/
theorem queueSound_answered {jobs jobs' : List Job} (h : QueueSound jobs) (hjobs : AnsweredJobs jobs jobs')
    (hreads : headReads jobs = true) : QueueSound jobs' ∧ headReads jobs' = false := by
  cases hjobs with
  | ended hj => exact h.ended (List.Sublist.refl _)
  | next hj hmore =>
    obtain ⟨hcount, hpages, -⟩ := h.sound _ (List.mem_cons_self ..)
    exact ⟨h.changeHead ⟨hcount, hpages, hmore⟩ rfl, rfl⟩
  | stays hno => exact absurd ((readOutstanding_eq _).symm.trans hno) (Bool.eq_false_iff.1 · hreads)

end Queue

/-! ## The memory port -/

/-- R46, R48, R60, R61: the three invariants in one. -/
structure State.MemoryPort (s : State) : Prop where
  entries : s.OutstandingSetSound
  queue : QueueSound s.jobs
  reads : s.mem.entries.countP (·.requester = .loadEngine) = (headReads s.jobs).toNat

theorem memoryPort_iff (s : State) : s.MemoryPort ↔ s.OutstandingSetSound ∧ s.LoadQueueSound ∧ s.LoadReadSound := by
  rw [loadQueueSound_iff, State.LoadReadSound, readOutstanding_eq]
  exact ⟨fun h => ⟨h.entries, h.queue, h.reads⟩, fun ⟨h1, h2, h3⟩ => ⟨h1, h2, h3⟩⟩

section Keep
variable {s t : State}

theorem memoryPort_of_frames (h : s.MemoryPort) (hm : t.mem = s.mem) (hj : t.jobs = s.jobs) : t.MemoryPort := by
  refine ⟨?_, hj ▸ h.queue, hm ▸ hj ▸ h.reads⟩
  unfold State.OutstandingSetSound
  rw [hm]
  exact h.entries

theorem memoryPort_of_jobs (h : s.MemoryPort) (hm : t.mem = s.mem)
    (hj : QueueSound s.jobs → QueueSound t.jobs ∧ headReads t.jobs = headReads s.jobs) : t.MemoryPort := by
  obtain ⟨hqueue, hreads⟩ := hj h.queue
  refine ⟨?_, hqueue, hm ▸ hreads ▸ h.reads⟩
  unfold State.OutstandingSetSound
  rw [hm]
  exact h.entries

theorem freeNumber_notMem {m : MemPort} {number : TxnId} (h : m.freeNumber = some number) :
    number ∉ m.entries.map (·.number) := by
  have hall := List.find?_some h
  simp only [List.all_eq_true, decide_eq_true_eq] at hall
  rintro hmem
  obtain ⟨e, he, hnumber⟩ := List.mem_map.1 hmem
  exact hall e he hnumber

/-- R46, R50: a transaction joins the set under a free number. -/
theorem outstandingSetSound_granted {e : OutEntry} (h : s.OutstandingSetSound) (hnumber : s.mem.freeNumber = some e.number)
    (hlength : s.mem.entries.length < Config.transactionLimit) (hgen : e.generation = s.mem.generation)
    (hentries : t.mem.entries = s.mem.entries ++ [e]) (htgen : t.mem.generation = s.mem.generation) :
    t.OutstandingSetSound := by
  obtain ⟨hnodup, -, hgens⟩ := h
  unfold State.OutstandingSetSound
  rw [hentries, htgen, List.map_append, List.length_append]
  refine ⟨hnodup.append (List.nodup_singleton _) ?_, hlength, fun x hx => ?_⟩
  · exact List.disjoint_singleton.2 (freeNumber_notMem hnumber)
  · obtain hx | hx := List.mem_append.1 hx
    · exact hgens x hx
    · obtain rfl := List.mem_singleton.1 hx
      exact hgen

theorem memoryPort_grantPort (h : s.MemoryPort) {q : Fin 7} {p : PortId} {number : TxnId}
    (hnumber : s.mem.freeNumber = some number) (hlength : s.mem.entries.length < Config.transactionLimit) :
    (s.grantPort q p number).MemoryPort := by
  cases hissue : s.mem.issue[p] with
  | nil =>
    rw [grantPort_of_nil s hissue]
    exact h
  | cons x rest =>
    have hmem := grantPort_mem_of_cons s (q := q) (number := number) hissue
    refine ⟨?_, (grantPort_jobs ..).symm ▸ h.queue, ?_⟩
    · exact outstandingSetSound_granted (e := OutEntry.mk number s.mem.generation (.port p x.access x.through) x.kind x.beats)
        h.entries hnumber hlength rfl (congrArg (·.entries) hmem) (congrArg (·.generation) hmem)
    · rw [hmem, grantPort_jobs, ← h.reads]
      simp

theorem memoryPort_grantLoad (h : s.MemoryPort) {q : Fin 7} {number : TxnId} (hnumber : s.mem.freeNumber = some number)
    (hlength : s.mem.entries.length < Config.transactionLimit) : (s.grantLoad q number).MemoryPort := by
  obtain hsame | ⟨j, rest, done, hjobs, hj, hgrant⟩ := grantLoad_cases s q number
  · rw [hsame]
    exact h
  · have hqueue := h.queue
    have hreads := h.reads
    rw [hjobs] at hqueue hreads
    obtain ⟨hcount, hpages, hdone⟩ := hqueue.sound j (List.mem_cons_self ..)
    rw [hj] at hdone
    rw [hgrant]
    refine ⟨?_, hqueue.changeHead ⟨hcount, hpages, hdone⟩ rfl, ?_⟩
    · exact outstandingSetSound_granted (e := OutEntry.mk number s.mem.generation .loadEngine .read 1) h.entries hnumber hlength
        rfl rfl rfl
    · have hnone : headReads (j :: rest) = false := isReading_of_requested hj
      rw [hnone] at hreads
      simp only [State.send, List.countP_append, hreads]
      rfl

/-- R55: an entry leaves the set. -/
theorem outstandingSetSound_answered {x : MemAnswer} {before after : List OutEntry} {e : OutEntry}
    (h : s.OutstandingSetSound) (hx : s.Answers x before e after) (hentries : t.mem.entries = before ++ after)
    (htgen : t.mem.generation = s.mem.generation) : t.OutstandingSetSound := by
  obtain ⟨-, hs, -, -⟩ := hx
  have hsub : t.mem.entries.Sublist s.mem.entries := by
    rw [hentries, hs]
    exact (List.sublist_cons_self e after).append_left before
  obtain ⟨hnodup, hlength, hgens⟩ := h
  exact ⟨hnodup.sublist (hsub.map _), Nat.le_trans hsub.length_le hlength, fun y hy => htgen ▸ hgens y (hsub.subset hy)⟩

theorem countP_of_answers {x : MemAnswer} {before after : List OutEntry} {e : OutEntry} (hx : s.Answers x before e after)
    (P : OutEntry → Bool) : s.mem.entries.countP P = (before ++ after).countP P + if P e = true then 1 else 0 := by
  obtain ⟨-, hs, -, -⟩ := hx
  simp only [hs, List.countP_append, List.countP_cons]
  omega

end Keep

theorem jobs_portReset {s t : State} {p : PortId} (h : exec (.portReset p) s = .next t) : t.jobs = s.jobs.map (·.disown p) := by
  obtain rfl := Host.Outcome.next.inj ((exec_portReset s p).symm.trans h)
  have hstate (u : State) : (u.resetState p).jobs = u.jobs := by
    unfold State.resetState
    split <;> simp
  exact (State.endRoles_jobs ..).trans (hstate _)

theorem Job.disown_state (j : Job) (p : PortId) :
    (j.disown p).state = j.state ∧ (j.disown p).count = j.count ∧ (j.disown p).first = j.first := by
  unfold Job.disown
  split <;> exact ⟨rfl, rfl, rfl⟩

theorem queueSound_disown {jobs : List Job} (h : QueueSound jobs) (p : PortId) :
    QueueSound (jobs.map (·.disown p)) ∧ headReads (jobs.map (·.disown p)) = headReads jobs := by
  have hsound (j : Job) (hj : j.Sound) : (j.disown p).Sound := by
    obtain ⟨hstate, hcount, hfirst⟩ := j.disown_state p
    unfold Job.Sound
    rwa [hstate, hcount, hfirst]
  refine ⟨⟨by simpa using h.length, fun k hk => ?_, fun k hk => ?_, fun k hk => ?_⟩, ?_⟩
  · obtain ⟨j, hj, rfl⟩ := List.mem_map.1 hk
    exact hsound j (h.sound j hj)
  · rw [List.head?_map, Option.mem_map] at hk
    obtain ⟨j, hj, rfl⟩ := hk
    unfold Job.isRunning
    rw [(j.disown_state p).1]
    exact h.running j hj
  · rw [← List.map_tail] at hk
    obtain ⟨j, hj, rfl⟩ := List.mem_map.1 hk
    rw [(j.disown_state p).1]
    exact h.queued j hj
  · cases jobs with
    | nil => rfl
    | cons j rest =>
      show (j.disown p).isReading = j.isReading
      unfold Job.isReading
      rw [(j.disown_state p).1]

/-- R46 to R50, R53, R54, R60 to R73: a grant adds one entry, an answer removes it, and the load engine's comes and goes with the
read of the RUNNING job. -/
theorem memoryPort_part {E C : Prop} {s t : State} (hpart : Part E C s t) (h : s.MemoryPort) : t.MemoryPort := by
  cases hpart
  case control hc _ => exact memoryPort_of_frames h hc.mem hc.jobs
  case requested | delivered | headAnswered | leaseCounted | leaseRenewed | timerLowered | edited | committed | swapped | unsealed
      | leaseParamsSet | unfenced | rightsMoved | configured | bound =>
    exact memoryPort_of_frames h rfl rfl
  case headStalled | fenced | stallEnded | rebound | unbound | waitingLeft =>
    exact memoryPort_of_frames h (by simp [State.stallPort, State.raiseBinders, State.lowerBinders])
      (by simp [State.stallPort, State.raiseBinders, State.lowerBinders])
  case headIssued => exact ⟨h.entries, h.queue, h.reads⟩
  case portGranted hnumber hlength => exact memoryPort_grantPort h hnumber hlength
  case loadGranted hnumber hlength => exact memoryPort_grantLoad h hnumber hlength
  case accessAnswered hx he _ =>
    refine ⟨outstandingSetSound_answered h.entries hx rfl rfl, h.queue, ?_⟩
    have hreads := h.reads
    rw [countP_of_answers hx, he] at hreads
    exact hreads
  case loadAnswered hx he hjobs =>
    have hreads := h.reads
    rw [countP_of_answers hx, he, if_pos (decide_eq_true rfl)] at hreads
    cases hhead : headReads s.jobs with
    | false => simp [hhead] at hreads
    | true =>
      obtain ⟨hqueue, hnone⟩ := queueSound_answered h.queue hjobs hhead
      refine ⟨outstandingSetSound_answered h.entries hx rfl rfl, hqueue, ?_⟩
      rw [hnone]
      rw [hhead] at hreads
      exact Nat.succ.inj hreads
  case loadAccepted hlength hj hqueued => exact memoryPort_of_jobs h rfl (queueSound_accepted · hlength hj hqueued)
  case loadsAborted n => exact memoryPort_of_jobs h rfl (queueSound_aborted n)
  case portReset p _ hreset =>
    refine memoryPort_of_jobs h (mem_portReset hreset) ?_
    rw [jobs_portReset hreset]
    exact (queueSound_disown · p)
  case deviceReset => exact ⟨⟨List.nodup_nil, Nat.zero_le _, nofun⟩, ⟨Nat.zero_le _, nofun, nofun, nofun⟩, rfl⟩
  case poweredUp => exact ⟨⟨List.nodup_nil, Nat.zero_le _, nofun⟩, ⟨Nat.zero_le _, nofun, nofun, nofun⟩, rfl⟩

/-- Settles O11: what every part keeps, every step keeps. -/
theorem memoryPortKept : Obligations.MemoryPortKept := fun _ _ hs h =>
  (memoryPort_iff _).1 (step_keep (fun _ _ => memoryPort_part) ((memoryPort_iff _).2 hs) h)

end Sys2Proof.Machine
end

section
/-! The fault queue as records join and retire, and its invariant: O7. -/

namespace Sys2Proof.Machine

/-! ## Records that join and retire -/

/-- The records of a fault queue but the ACCESS record of port `p` (R145). -/
def withoutAccess (faults : List FaultRecord) (p : PortId) : List FaultRecord :=
  faults.filter fun f => !(f.body.isAccess && f.port = p)

theorem retireAccess_faults (s : State) (p : PortId) : (s.retireAccess p).faults = withoutAccess s.faults p := rfl

theorem faultsWithoutAccess_eq (s : State) (p : PortId) : s.faultsWithoutAccess p = withoutAccess s.faults p := rfl

@[simp] theorem raiseSupervisor_faults (s : State) (f : Flag) : (s.raiseSupervisor f).faults = s.faults := by
  unfold State.raiseSupervisor
  split <;> rfl

theorem joinFault_faults (s : State) (p : PortId) (body : FaultBody) :
    (s.joinFault p body).faults =
      s.faults ++ [{ seq := s.nextSequence, port := p, stamp := s.stampCount, body := body }] := raiseSupervisor_faults ..

theorem stallPort_faults (s : State) (p : PortId) (k : AccId) (a : Access) (b : Binding) (kind : FaultKind) :
    (s.stallPort p k a b kind).faults =
      s.faults ++
        [{ seq := s.nextSequence, port := p, stamp := s.stampCount
           body := .access kind b.slot (accessPage a) a.kind a.tag }] := by
  rw [State.stallPort, State.leaveWaiting_faults]
  exact joinFault_faults ..

theorem nextSequence_congr {s t : State} (hf : t.faults = s.faults) (hc : t.seqCounter = s.seqCounter) :
    t.nextSequence = s.nextSequence := by
  unfold State.nextSequence
  rw [hf, hc]

/-- The LEASE record of a violation (R128). -/
def State.violationRecord (s : State) (p : PortId) (kind : LeaseKind) : FaultRecord :=
  { seq := (s.retireAccess p).nextSequence, port := p, stamp := s.stampCount
    body := .lease kind (if s.rights.isSupervisor p then .lost (s.rolesEnded p).holder else .kept) }

/-- The state in which a port that enters FENCED has lost its roles, but for its LEASE record and its FENCED flag (R127). -/
def State.fencedRoleless (s : State) (p : PortId) : State :=
  (((s.modifyPort p (·.answerFenced)).retireAccess p).detach p .fenced).endRoles p

theorem enterFenced_eq (s : State) (p : PortId) (cause : Option LeaseKind) :
    s.enterFenced p cause =
      ((s.fencedRoleless p).recordViolation p (s.rights.isSupervisor p) cause).modifyPort p (·.raise .fenced) := rfl

theorem fencedRoleless_faults (s : State) (p : PortId) : (s.fencedRoleless p).faults = withoutAccess s.faults p :=
  (State.endRoles_faults ..).trans (State.detach_faults ..)

theorem fencedRoleless_rights (s : State) (p : PortId) : (s.fencedRoleless p).rights = s.rolesEnded p :=
  (State.recordViolation_rights (s.fencedRoleless p) p true none).symm.trans (enterFenced_rights s p none)

/-- R127, R128: the ACCESS record retires, and a violation adds its record. -/
theorem enterFenced_faults (s : State) (p : PortId) (cause : Option LeaseKind) :
    (s.enterFenced p cause).faults =
      withoutAccess s.faults p ++ (cause.map (s.violationRecord p)).toList := by
  rw [enterFenced_eq, State.modifyPort_faults]
  cases cause with
  | none => exact (fencedRoleless_faults s p).trans (List.append_nil _).symm
  | some kind =>
    have hseq : (s.fencedRoleless p).nextSequence = (s.retireAccess p).nextSequence :=
      nextSequence_congr (fencedRoleless_faults s p) ((State.endRoles_seqCounter ..).trans (State.detach_seqCounter ..))
    have hstamp : (s.fencedRoleless p).stampCount = s.stampCount :=
      (State.endRoles_stampCount ..).trans (State.detach_stampCount ..)
    rw [State.recordViolation, joinFault_faults, fencedRoleless_faults, hseq, hstamp, fencedRoleless_rights]
    rfl

theorem endStall_faults {s : State} {p : PortId} {b : Binding} {st : Stall} (f : AccessSlot → AccessSlot)
    (h : s.ports[p].state = .stalled b st) : (s.endStall p f).faults = withoutAccess s.faults p := by
  unfold State.endStall State.port
  rw [h]
  rfl

theorem resetState_faults (s : State) (p : PortId) :
    (s.resetState p).faults = if s.ports[p].state.isBound then withoutAccess s.faults p else s.faults := by
  unfold State.resetState State.port
  cases s.ports[p].state with
  | attached | stalled => exact State.detach_faults ..
  | detached | fenced => rfl

/-- R114: a port reset retires the ACCESS record of a port that is bound. -/
theorem faults_portReset {s t : State} {p : PortId} (h : exec (.portReset p) s = .next t) :
    t.faults = if s.ports[p].state.isBound then withoutAccess s.faults p else s.faults := by
  obtain rfl := Host.Outcome.next.inj ((exec_portReset s p).symm.trans h)
  have hstate : (s.resetAccesses p).ports[p].state = s.ports[p].state := congrFun (states_resetAccesses s p) p
  have hfaults := resetState_faults (s.resetAccesses p) p
  rw [hstate] at hfaults
  exact (State.endRoles_faults ..).trans hfaults

/-! ## The records of one port -/

/-- The sequence numbers of the ACCESS records of a port. -/
def accessSeqs (faults : List FaultRecord) (p : PortId) : List (BitVec 16) :=
  (faults.filter fun f => f.body.isAccess && f.port = p).map (·.seq)

/-- The number of LEASE records of a port. -/
def leaseCount (faults : List FaultRecord) (p : PortId) : Nat := faults.countP fun f => !f.body.isAccess && f.port = p

/-- The sequence numbers of the ACCESS records a port in this state has (R138). -/
def PortState.accessSeqs : PortState → List (BitVec 16)
  | .stalled _ st => [st.seq]
  | .detached | .attached _ | .fenced => []

section Records
variable (faults : List FaultRecord) (p q : PortId)

theorem accessSeqs_append (f : FaultRecord) :
    accessSeqs (faults ++ [f]) p = accessSeqs faults p ++ if f.body.isAccess = true ∧ f.port = p then [f.seq] else [] := by
  simp only [accessSeqs, List.filter_append, List.map_append, List.filter_singleton]
  congr 1
  cases f.body.isAccess with
  | false => simp
  | true => by_cases hp : f.port = p <;> simp [hp]

theorem leaseCount_append (f : FaultRecord) :
    leaseCount (faults ++ [f]) p = leaseCount faults p + if f.body.isAccess = false ∧ f.port = p then 1 else 0 := by
  simp [leaseCount, List.countP_append, List.countP_singleton]

theorem accessSeqs_withoutAccess : accessSeqs (withoutAccess faults p) q = if q = p then [] else accessSeqs faults q := by
  unfold accessSeqs withoutAccess
  rw [List.filter_filter]
  split
  case isTrue e =>
    subst e
    rw [List.filter_eq_nil_iff.2, List.map_nil]
    simp
  case isFalse e =>
    refine congrArg _ (List.filter_congr fun f _ => ?_)
    by_cases hf : f.port = q
    · simp [hf, e]
    · simp [hf]

theorem leaseCount_withoutAccess : leaseCount (withoutAccess faults p) q = leaseCount faults q := by
  unfold leaseCount withoutAccess
  rw [List.countP_filter]
  refine List.countP_congr fun f _ => ?_
  cases f.body.isAccess <;> simp

theorem accessSeqs_retireLease (s : State) : accessSeqs (s.retireLease p).faults q = accessSeqs s.faults q := by
  unfold accessSeqs State.retireLease
  rw [List.filter_filter]
  refine congrArg _ (List.filter_congr fun f _ => ?_)
  cases f.body.isAccess <;> simp

theorem leaseCount_retireLease (s : State) :
    leaseCount (s.retireLease p).faults q = if q = p then 0 else leaseCount s.faults q := by
  unfold leaseCount State.retireLease
  rw [List.countP_filter]
  split
  case isTrue e =>
    subst e
    rw [List.countP_eq_zero]
    simp
  case isFalse e =>
    refine List.countP_congr fun f _ => ?_
    by_cases hf : f.port = q
    · simp [hf, e]
    · simp [hf]

end Records

/-! ## The fault queue agrees with the states of the ports -/

/-- R138, over the fault queue and the states of the ports. -/
structure RecordsFit (faults : List FaultRecord) (states : PortId → PortState) : Prop where
  distinct : (faults.map (·.seq)).Nodup
  access : ∀ p, accessSeqs faults p = (states p).accessSeqs
  lease : ∀ p, leaseCount faults p ≤ if (states p).isFenced then 1 else 0

theorem faultQueueSound_iff (s : State) : s.FaultQueueSound ↔ RecordsFit s.faults s.states := by
  have haccess (p : PortId) : (s.states p).accessSeqs = match (s.port p).state with
      | .stalled _ st => [st.seq]
      | .detached | .attached _ | .fenced => [] := by
    show (s.port p).state.accessSeqs = _
    cases (s.port p).state <;> rfl
  constructor
  · rintro ⟨hdistinct, hrecords⟩
    exact ⟨hdistinct, fun p => (hrecords p).1.trans (haccess p).symm, fun p => (hrecords p).2⟩
  · rintro ⟨hdistinct, hacc, hlease⟩
    exact ⟨hdistinct, fun p => ⟨(hacc p).trans (haccess p), hlease p⟩⟩

section Fit
variable {faults : List FaultRecord} {states : PortId → PortState} {p : PortId} {st : PortState}

/-- R138: each port has at most one record of each class, so the queue has at most 12. -/
theorem RecordsFit.length_le (h : RecordsFit faults states) : faults.length ≤ 12 := by
  have hnodup : (faults.map fun f => (f.port, f.body.isAccess)).Nodup := by
    rw [List.nodup_iff_count_le_one]
    rintro ⟨p, access⟩
    rw [List.count, List.countP_map]
    cases access with
    | true =>
      have hcount : faults.countP (fun f => f.body.isAccess && f.port = p) ≤ 1 := by
        have hlength := congrArg List.length (h.access p)
        rw [accessSeqs, List.length_map, ← List.countP_eq_length_filter] at hlength
        rw [hlength]
        cases states p <;> simp [PortState.accessSeqs]
      refine Nat.le_trans (Nat.le_of_eq (List.countP_congr fun f _ => ?_)) hcount
      simp [and_comm]
    | false =>
      have hcount : leaseCount faults p ≤ 1 := Nat.le_trans (h.lease p) (by split <;> decide)
      refine Nat.le_trans (Nat.le_of_eq (List.countP_congr fun f _ => ?_)) hcount
      simp [and_comm]
  have hcard := hnodup.length_le_card
  rwa [List.length_map] at hcard

theorem nextSequence_notMem {s : State} (h : s.faults.length ≤ 12) : s.nextSequence ∉ s.faults.map (·.seq) := by
  obtain ⟨d, -, -, hfree, hnext⟩ := nextSequence_spec s (by omega)
  rw [hnext]
  intro hmem
  obtain ⟨f, hf, hseq⟩ := List.mem_map.1 hmem
  exact hfree f hf hseq

/-- A port that changes to a state that calls for the same records. -/
theorem RecordsFit.update (h : RecordsFit faults states) (haccess : st.accessSeqs = (states p).accessSeqs)
    (hfenced : st.isFenced = (states p).isFenced) : RecordsFit faults (Function.update states p st) := by
  refine ⟨h.distinct, fun q => ?_, fun q => ?_⟩
  · rw [h.access, Function.update_apply]
    split
    · next e => rw [e, haccess]
    · rfl
  · have hsame : (Function.update states p st q).isFenced = (states q).isFenced := by
      rw [Function.update_apply]
      split
      · next e => rw [e, hfenced]
      · rfl
    rw [hsame]
    exact h.lease q

/-- R138, R143: an ACCESS record joins with the stall of its port. -/
theorem RecordsFit.stalled (h : RecordsFit faults states) {f : FaultRecord} (hseq : f.seq ∉ faults.map (·.seq))
    (hf : f.body.isAccess = true) (hp : f.port = p) (hbefore : (states p).accessSeqs = []) (hst : st.accessSeqs = [f.seq])
    (hfenced : (states p).isFenced = false) : RecordsFit (faults ++ [f]) (Function.update states p st) := by
  refine ⟨?_, fun q => ?_, fun q => ?_⟩
  · rw [List.map_append]
    exact h.distinct.append (List.nodup_singleton _) (List.disjoint_singleton.2 hseq)
  · rw [accessSeqs_append, h.access, Function.update_apply, hp]
    by_cases e : q = p
    · rw [if_pos e, if_pos ⟨hf, e.symm⟩, e, hbefore, hst, List.nil_append]
    · rw [if_neg e, if_neg fun ⟨_, e'⟩ => e e'.symm, List.append_nil]
  · have hq := h.lease q
    rw [leaseCount_append, hf, if_neg nofun, Function.update_apply]
    split
    · next e =>
      rw [e, hfenced] at hq
      rw [e, Nat.le_zero.1 hq]
      exact Nat.zero_le _
    · exact hq

/-- R138, R145: the ACCESS record of a port retires. -/
theorem RecordsFit.retired (h : RecordsFit faults states) (hst : st.accessSeqs = [])
    (hfenced : (states p).isFenced = true → st.isFenced = true) :
    RecordsFit (withoutAccess faults p) (Function.update states p st) := by
  refine ⟨h.distinct.sublist (List.filter_sublist.map _), fun q => ?_, fun q => ?_⟩
  · rw [accessSeqs_withoutAccess, Function.update_apply]
    split
    · exact hst.symm
    · exact h.access q
  · have hq := h.lease q
    rw [leaseCount_withoutAccess, Function.update_apply]
    split
    · next e =>
      rw [e] at hq ⊢
      refine Nat.le_trans hq ?_
      split
      · next hp => rw [hfenced hp]; exact le_rfl
      · exact Nat.zero_le _
    · exact hq

/-- R128, R138: a LEASE record joins as its port enters FENCED. -/
theorem RecordsFit.violated (h : RecordsFit faults states) {f : FaultRecord} (hseq : f.seq ∉ (withoutAccess faults p).map (·.seq))
    (hf : f.body.isAccess = false) (hp : f.port = p) (hfenced : (states p).isFenced = false) :
    RecordsFit (withoutAccess faults p ++ [f]) (Function.update states p .fenced) := by
  have hretired := h.retired (p := p) (st := .fenced) rfl fun _ => rfl
  refine ⟨?_, fun q => ?_, fun q => ?_⟩
  · rw [List.map_append]
    exact hretired.distinct.append (List.nodup_singleton _) (List.disjoint_singleton.2 hseq)
  · rw [accessSeqs_append, hf, if_neg nofun, List.append_nil]
    exact hretired.access q
  · have hq := h.lease q
    rw [leaseCount_append, leaseCount_withoutAccess, Function.update_apply, hp]
    by_cases e : q = p
    · rw [e, hfenced] at hq
      rw [if_pos ⟨hf, e.symm⟩, if_pos e, e, Nat.le_zero.1 hq]
      exact le_rfl
    · rw [if_neg fun ⟨_, e'⟩ => e e'.symm, if_neg e]
      exact hq

end Fit

/-- R131, R138: the LEASE record of a FENCED port retires as it becomes DETACHED. -/
theorem RecordsFit.unfenced {s : State} {p : PortId} (h : RecordsFit s.faults s.states) (hp : s.states p = .fenced) :
    RecordsFit (s.retireLease p).faults (Function.update s.states p .detached) := by
  refine ⟨h.distinct.sublist (List.filter_sublist.map _), fun q => ?_, fun q => ?_⟩
  · rw [accessSeqs_retireLease, Function.update_apply, h.access]
    split
    · next e => rw [e, hp]; rfl
    · rfl
  · rw [leaseCount_retireLease, Function.update_apply]
    split
    · exact Nat.zero_le _
    · exact h.lease q

section Keep
variable {s t : State} {p : PortId} {st : PortState}

theorem faultQueueSound_of_frames (h : s.FaultQueueSound) (hf : t.faults = s.faults) (hs : t.states = s.states) :
    t.FaultQueueSound := by
  rw [faultQueueSound_iff] at h ⊢
  rwa [hf, hs]

theorem faultQueueSound_of_update (h : s.FaultQueueSound) (hf : t.faults = s.faults)
    (hs : t.states = Function.update s.states p st) (haccess : st.accessSeqs = (s.states p).accessSeqs)
    (hfenced : st.isFenced = (s.states p).isFenced) : t.FaultQueueSound := by
  rw [faultQueueSound_iff] at h ⊢
  rw [hf, hs]
  exact h.update haccess hfenced

theorem faultQueueSound_of_attached {b b' : Binding} (h : s.FaultQueueSound) (hf : t.faults = s.faults)
    (hstate : s.ports[p].state = .attached b) (hs : t.states = Function.update s.states p (.attached b')) : t.FaultQueueSound :=
  faultQueueSound_of_update h hf hs (congrArg (·.accessSeqs) hstate).symm (congrArg (·.isFenced) hstate).symm

theorem faultQueueSound_retired (h : s.FaultQueueSound) (hf : t.faults = withoutAccess s.faults p)
    (hs : t.states = Function.update s.states p st) (hst : st.accessSeqs = [])
    (hfenced : (s.states p).isFenced = true → st.isFenced = true) : t.FaultQueueSound := by
  rw [faultQueueSound_iff] at h ⊢
  rw [hf, hs]
  exact h.retired hst hfenced

theorem faultQueueSound_stallPort {k : AccId} {a : Access} {b : Binding} {kind : FaultKind} (h : s.FaultQueueSound)
    (hstate : s.ports[p].state = .attached b) : (s.stallPort p k a b kind).FaultQueueSound := by
  rw [faultQueueSound_iff] at h ⊢
  rw [stallPort_faults, states_stallPort]
  exact h.stalled (nextSequence_notMem h.length_le) rfl rfl (congrArg (·.accessSeqs) hstate) rfl
    (congrArg (·.isFenced) hstate)

theorem faultQueueSound_enterFenced {cause : Option LeaseKind} (h : s.FaultQueueSound)
    (hcause : cause ≠ none → ∃ b, s.ports[p].state = .attached b) : (s.enterFenced p cause).FaultQueueSound := by
  rw [faultQueueSound_iff] at h ⊢
  rw [enterFenced_faults, states_enterFenced]
  cases cause with
  | none =>
    rw [Option.map_none, Option.toList_none, List.append_nil]
    exact h.retired rfl fun _ => rfl
  | some kind =>
    obtain ⟨b, hstate⟩ := hcause nofun
    have hlength : (s.retireAccess p).faults.length ≤ 12 := Nat.le_trans (List.length_filter_le ..) h.length_le
    exact h.violated (f := s.violationRecord p kind) (nextSequence_notMem hlength) rfl rfl (congrArg (·.isFenced) hstate)

theorem faultQueueSound_portReset (h : s.FaultQueueSound) (hreset : exec (.portReset p) s = .next t) : t.FaultQueueSound := by
  have hfaults := faults_portReset hreset
  have hstates := states_portReset hreset
  cases hstate : s.ports[p].state with
  | detached | fenced =>
    rw [hstate] at hfaults hstates
    exact faultQueueSound_of_update h hfaults hstates (congrArg (·.accessSeqs) hstate).symm
      (congrArg (·.isFenced) hstate).symm
  | attached | stalled =>
    rw [hstate] at hfaults hstates
    exact faultQueueSound_retired h hfaults hstates rfl fun hfenced =>
      absurd ((congrArg (·.isFenced) hstate).symm.trans hfenced) nofun

end Keep

@[simp] theorem grantPort_faults (s : State) (q : Fin 7) (p : PortId) (number : TxnId) :
    (s.grantPort q p number).faults = s.faults := by
  unfold State.grantPort
  split <;> rfl

@[simp] theorem grantLoad_faults (s : State) (q : Fin 7) (number : TxnId) : (s.grantLoad q number).faults = s.faults := by
  unfold State.grantLoad
  split
  · rfl
  · split <;> rfl

/-- R138: a record joins with the stall or the violation that makes it and retires with the stall's end or the UNFENCE; elsewhere
the states change only between two that call for the same records. -/
theorem faultQueueSound_part {E C : Prop} {s t : State} (hpart : Part E C s t) (h : s.FaultQueueSound) : t.FaultQueueSound := by
  cases hpart
  case control hc _ => exact faultQueueSound_of_frames h hc.faults (states_of_bodies hc.bodies)
  case requested | delivered | headAnswered | headIssued | leaseParamsSet | rightsMoved =>
    exact faultQueueSound_of_frames h rfl (by simp)
  case portGranted | loadGranted | waitingLeft => exact faultQueueSound_of_frames h (by simp) (by simp)
  case configured | loadAccepted | loadsAborted | loadAnswered | edited | committed | swapped | unsealed =>
    exact faultQueueSound_of_frames h rfl rfl
  case accessAnswered p k through m _ _ _ =>
    exact faultQueueSound_of_frames h rfl
      (states_of_update_of_state (s := s) (bodies_modifyPort { s with mem := _ } p (·.placeAnswer k _ _))
        (placeAnswer_state ..))
  case headStalled hstate => exact faultQueueSound_stallPort h hstate
  case leaseCounted p b hstate _ =>
    refine faultQueueSound_of_attached (b' := { b with lease := s.ports[p].params.count b.lease }) h rfl hstate ?_
    rw [states_modifyPort, countTick_state]
    rfl
  case leaseRenewed hstate => exact faultQueueSound_of_attached h rfl hstate (states_modifyPort ..)
  case timerLowered hstate _ _ =>
    exact faultQueueSound_of_update h rfl (states_modifyPort ..) (congrArg (·.accessSeqs) hstate).symm
      (congrArg (·.isFenced) hstate).symm
  case fenced hcause => exact faultQueueSound_enterFenced h hcause
  case stallEnded hstate _ =>
    exact faultQueueSound_retired h (endStall_faults _ hstate) (states_endStall s _ hstate) rfl fun hfenced =>
      absurd ((congrArg (·.isFenced) hstate).symm.trans hfenced) nofun
  case bound q n hstate =>
    exact faultQueueSound_of_update (p := q) (st := .attached { slot := n, lease := s.ports[q.val].params.start }) h rfl
      (by simp) (congrArg (·.accessSeqs) hstate).symm (congrArg (·.isFenced) hstate).symm
  case rebound q b n hstate _ =>
    exact faultQueueSound_of_attached (b' := { b with slot := n }) h
      (by simp [State.raiseBinders, State.lowerBinders]) hstate (by simp)
  case unbound hstate =>
    exact faultQueueSound_of_update h (by simp) (states_detach ..) (congrArg (·.accessSeqs) hstate).symm
      (congrArg (·.isFenced) hstate).symm
  case unfenced q hstate =>
    rw [faultQueueSound_iff] at h ⊢
    rw [states_modifyPort]
    exact h.unfenced hstate
  case portReset hreset => exact faultQueueSound_portReset h hreset
  case deviceReset => exact faultQueueSound_of_frames resetIsSound.faultQueueSound rfl (states_deviceReset s)
  case poweredUp => exact resetIsSound.faultQueueSound

/-- Settles O7: what every part keeps, every step keeps. -/
theorem faultQueueKept : Obligations.FaultQueueKept := fun _ _ hs h => step_keep (fun _ _ => faultQueueSound_part) hs h

end Sys2Proof.Machine
end

section
/-! The access slots of a port with their arrival order and request channel, their transactions at the memory port, and the
invariant that ties them together: O12. -/

namespace Sys2Proof.Machine

/-! ## One access slot -/

/-- Whether an access slot stands in the arrival order. -/
def ordered (x : Option AccessSlot) : Bool := x.any (·.inOrder)

/-- Whether an access slot is STALLED. -/
def stalledSlot (x : Option AccessSlot) : Bool := x.any (·.state = .stalled)

/-- The map slot an ISSUED access slot was translated through, as a list of at most one. -/
def throughOf (x : Option AccessSlot) : List SlotId :=
  match (x.map (·.state) : Option AccessState) with
  | some (.issued n _) => [n]
  | some .untranslated | some .stalled | some (.answered _ _) | none => []

/-- Whether access slot `k` is that of the port's stalled access (R102). -/
def PortState.StalledAt (st : PortState) (k : AccId) : Prop :=
  match st with
  | .stalled _ x => x.access = k
  | .detached | .attached _ | .fenced => False

theorem getElem_set_slot (v : Vector (Option AccessSlot) 8) (k j : AccId) (x : Option AccessSlot) :
    (v.set k x)[j] = if k = j then x else v[j] := by
  simp [Vector.getElem_set, Fin.val_inj]

theorem slot_of_head {r : PortRec} {k : AccId} {a : Access} (h : r.head? = some (k, a)) :
    r.slots[k] = some { access := a, state := .untranslated } := by
  obtain ⟨j, -, hj⟩ := List.exists_of_findSome?_eq_some h
  split at hj
  · next b hb =>
    obtain ⟨rfl, rfl⟩ := Prod.mk.inj (Option.some.inj hj)
    exact hb
  · cases hj

/-! ## The access slots of one port -/

/-- R22, R23 for one port, but for the request channel. -/
structure PortRec.Placed (r : PortRec) : Prop where
  nodup : r.arrival.Nodup
  order : ∀ k : AccId, k ∈ r.arrival ↔ ordered r.slots[k] = true
  stall : ∀ k : AccId, stalledSlot r.slots[k] = true ↔ r.state.StalledAt k

/-- R22: requests are held off only while all eight slots are occupied. -/
def PortRec.HoldsOff (r : PortRec) : Prop := r.requests ≠ [] → ∀ k : AccId, r.slots[k].isSome = true

theorem placed_iff (r : PortRec) : r.Placed ∧ r.HoldsOff ↔ r.ArrivalSound ∧ r.StallSound := by
  have hstall : r.StallSound ↔ ∀ k : AccId, stalledSlot r.slots[k] = true ↔ r.state.StalledAt k := by
    unfold PortRec.StallSound PortState.StalledAt
    cases r.state <;> rfl
  rw [hstall]
  constructor
  · rintro ⟨h, hheld⟩
    exact ⟨⟨h.nodup, h.order, hheld⟩, h.stall⟩
  · rintro ⟨⟨hnodup, horder, hheld⟩, hs⟩
    exact ⟨⟨hnodup, horder, hs⟩, hheld⟩

section Placed
variable {r r' : PortRec} {k : AccId} {x : Option AccessSlot}

/-- Each slot keeps its place in the arrival order. -/
theorem PortRec.Placed.of_slots (h : r.Placed) (harrival : r'.arrival = r.arrival)
    (horder : ∀ k : AccId, ordered r'.slots[k] = ordered r.slots[k])
    (hstall : ∀ k : AccId, stalledSlot r'.slots[k] = true ↔ r'.state.StalledAt k) : r'.Placed := by
  refine ⟨harrival ▸ h.nodup, fun k => ?_, hstall⟩
  rw [harrival, horder]
  exact h.order k

/-- A port takes a state with the same stalled access, if any. -/
theorem PortRec.Placed.of_state (h : r.Placed) (harrival : r'.arrival = r.arrival) (hslots : r'.slots = r.slots)
    (hstate : ∀ k, r'.state.StalledAt k ↔ r.state.StalledAt k) : r'.Placed :=
  h.of_slots harrival (fun k => by rw [hslots]) fun k => by rw [hslots, h.stall, hstate]

/-- One slot changes and keeps its place in the arrival order. -/
theorem PortRec.Placed.setSlot (h : r.Placed) (horder : ordered x = ordered r.slots[k])
    (hstall : stalledSlot x = stalledSlot r.slots[k]) : PortRec.Placed { r with slots := r.slots.set k x } := by
  refine h.of_slots rfl (fun j => ?_) fun j => ?_
  · rw [getElem_set_slot]
    split
    · next e => rw [horder, e]
    · rfl
  · rw [getElem_set_slot]
    split
    · next e => rw [hstall, e]; exact h.stall j
    · exact h.stall j

/-- A slot outside the arrival order is freed. -/
theorem PortRec.Placed.freeUnordered (h : r.Placed) (horder : ordered r.slots[k] = false)
    (hstall : stalledSlot r.slots[k] = false) : PortRec.Placed { r with slots := r.slots.set k none } :=
  h.setSlot horder.symm hstall.symm

/-- R40: the slot with the oldest arrival position is freed. -/
theorem PortRec.Placed.freeOldest {rest : List AccId} (h : r.Placed) (harrival : r.arrival = k :: rest)
    (hstall : stalledSlot r.slots[k] = false) : PortRec.Placed { r with slots := r.slots.set k none, arrival := rest } := by
  have hnodup := h.nodup
  rw [harrival, List.nodup_cons] at hnodup
  obtain ⟨hk, hrest⟩ := hnodup
  refine ⟨hrest, fun j => ?_, fun j => ?_⟩
  · have hj := h.order j
    rw [harrival, List.mem_cons] at hj
    rw [getElem_set_slot]
    split
    · next e => subst e; exact ⟨fun hmem => absurd hmem hk, nofun⟩
    · next e => rw [← hj]; exact ⟨.inr, fun hor => hor.resolve_left (Ne.symm e)⟩
  · rw [getElem_set_slot]
    split
    · next e =>
      subst e
      exact ⟨nofun, fun hst => absurd ((h.stall k).2 hst) (Bool.eq_false_iff.1 hstall)⟩
    · exact h.stall j

/-- R22, R23: a request goes into a free slot. -/
theorem PortRec.Placed.accept (h : r.Placed) (a : Access) (hfree : r.slots[k] = none) : (r.accept k a).Placed := by
  have hk : k ∉ r.arrival := fun hmem => by
    have := (h.order k).1 hmem
    rw [hfree] at this
    cases this
  refine ⟨?_, fun j => ?_, fun j => ?_⟩
  · exact h.nodup.append (List.nodup_singleton _) (List.disjoint_singleton.2 hk)
  · show j ∈ r.arrival ++ [k] ↔ ordered (r.slots.set k (some { access := a, state := .untranslated }))[j] = true
    rw [List.mem_append, List.mem_singleton, h.order, getElem_set_slot]
    by_cases e : k = j
    · rw [if_pos e]
      exact ⟨fun _ => rfl, fun _ => .inr e.symm⟩
    · rw [if_neg e]
      exact ⟨fun hor => hor.resolve_right (Ne.symm e), .inl⟩
  · show stalledSlot (r.slots.set k (some { access := a, state := .untranslated }))[j] = true ↔ r.state.StalledAt j
    rw [← h.stall, getElem_set_slot]
    split
    · next e => subst e; rw [hfree]; exact ⟨nofun, nofun⟩
    · rfl

theorem slot_of_freeSlot {pick : AccId} (h : r.freeSlot pick = some k) : r.slots[k] = none := by
  have hk := List.find?_some h
  exact Option.isNone_iff_eq_none.1 hk

theorem slots_of_freeSlot_none {pick : AccId} (h : r.freeSlot pick = none) (j : AccId) : r.slots[j].isSome = true := by
  have hj := List.find?_eq_none.1 h j (List.mem_cons_of_mem _ (List.mem_finRange j))
  exact Option.isSome_iff_ne_none.2 (by simpa using hj)

/-- R22: requests are accepted as far as slots are free; the accepted ones are UNTRANSLATED. -/
theorem placed_acceptFrom (held : List HeldRequest) (h : r.Placed) :
    (r.acceptFrom held).Placed ∧ (r.acceptFrom held).HoldsOff ∧
      ∀ k : AccId, throughOf (r.acceptFrom held).slots[k] = throughOf r.slots[k] := by
  induction held generalizing r with
  | nil => exact ⟨h.of_state rfl rfl fun _ => Iff.rfl, fun hne => absurd rfl hne, fun _ => rfl⟩
  | cons x rest ih =>
    cases hpick : r.freeSlot x.pick with
    | some k =>
      have hstep : r.acceptFrom (x :: rest) = (r.accept k x.access).acceptFrom rest := by rw [PortRec.acceptFrom, hpick]
      have hfree := slot_of_freeSlot hpick
      rw [hstep]
      obtain ⟨hplaced, hheld, hthrough⟩ := ih (h.accept x.access hfree)
      refine ⟨hplaced, hheld, fun j => (hthrough j).trans ?_⟩
      show throughOf (r.slots.set k (some { access := x.access, state := .untranslated }))[j] = _
      rw [getElem_set_slot]
      split
      · next e => subst e; rw [hfree]; rfl
      · rfl
    | none =>
      have hstep : r.acceptFrom (x :: rest) = { r with requests := x :: rest } := by rw [PortRec.acceptFrom, hpick]
      rw [hstep]
      exact ⟨h.of_state rfl rfl fun _ => Iff.rfl, fun _ k => slots_of_freeSlot_none hpick k, fun _ => rfl⟩

theorem placed_acceptHeld (h : r.Placed) :
    r.acceptHeld.Placed ∧ r.acceptHeld.HoldsOff ∧ ∀ k : AccId, throughOf r.acceptHeld.slots[k] = throughOf r.slots[k] :=
  placed_acceptFrom r.requests h

end Placed

/-! ## Access slots and memory port -/

/-- R22, R23, R39, R47: the three invariants in one. -/
structure State.Accesses (s : State) : Prop where
  placed : ∀ p : PortId, (s.bodies p).Placed
  holdsOff : ∀ p : PortId, (s.bodies p).HoldsOff
  issued : ∀ (p : PortId) (k : AccId), s.transactionsOf p k = throughOf (s.bodies p).slots[k]

theorem accesses_iff (s : State) : s.Accesses ↔ s.ArrivalsSound ∧ s.StallsSound ∧ s.IssuedSound := by
  have hbody (p : PortId) : (s.bodies p).Placed ∧ (s.bodies p).HoldsOff ↔ (s.port p).ArrivalSound ∧ (s.port p).StallSound :=
    placed_iff (s.bodies p)
  constructor
  · rintro ⟨hplaced, hheld, hissued⟩
    exact ⟨fun p => ((hbody p).1 ⟨hplaced p, hheld p⟩).1, fun p => ((hbody p).1 ⟨hplaced p, hheld p⟩).2, fun p k => hissued p k⟩
  · rintro ⟨harrivals, hstalls, hissued⟩
    exact ⟨fun p => ((hbody p).2 ⟨harrivals p, hstalls p⟩).1, fun p => ((hbody p).2 ⟨harrivals p, hstalls p⟩).2,
      fun p k => hissued p k⟩

/-- The map slot of an entry that is a transaction of access slot `k` of port `p`. -/
def OutEntry.throughFor (p : PortId) (k : AccId) (e : OutEntry) : Option SlotId :=
  match e.requester with
  | .port q l n => if q = p ∧ l = k then some n else none
  | .loadEngine => none

theorem transactionsOf_eq (s : State) (p : PortId) (k : AccId) :
    s.transactionsOf p k =
      (s.mem.issue[p].filter (·.access = k)).map (·.through) ++ s.mem.entries.filterMap (OutEntry.throughFor p k) := by
  unfold State.transactionsOf
  congr 1

theorem throughOf_eq (x : Option AccessSlot) : throughOf x = [] ∨ ∃ n, throughOf x = [n] := by
  unfold throughOf
  split
  · exact .inr ⟨_, rfl⟩
  all_goals exact .inl rfl

theorem throughFor_of_port {e : OutEntry} {p : PortId} {k : AccId} {n : SlotId} (h : e.requester = .port p k n) (q : PortId)
    (l : AccId) : e.throughFor q l = if p = q ∧ k = l then some n else none := by
  unfold OutEntry.throughFor
  rw [h]

theorem throughFor_of_loadEngine {e : OutEntry} (h : e.requester = .loadEngine) (q : PortId) (l : AccId) :
    e.throughFor q l = none := by
  unfold OutEntry.throughFor
  rw [h]

section Keep
variable {s t : State} {p : PortId} {r : PortRec}

theorem transactionsOf_of_mem (h : t.mem = s.mem) (q : PortId) (k : AccId) : t.transactionsOf q k = s.transactionsOf q k := by
  rw [transactionsOf_eq, transactionsOf_eq, h]

theorem accesses_of_frames (h : s.Accesses) (hb : t.bodies = s.bodies) (hm : t.mem = s.mem) : t.Accesses := by
  refine ⟨hb ▸ h.placed, hb ▸ h.holdsOff, fun q k => ?_⟩
  rw [transactionsOf_of_mem hm, hb]
  exact h.issued q k

/-- The access slots of one port change. -/
theorem accesses_of_update (h : s.Accesses) (hb : t.bodies = Function.update s.bodies p r)
    (hm : ∀ q k, q ≠ p → t.transactionsOf q k = s.transactionsOf q k) (hplaced : r.Placed) (hheld : r.HoldsOff)
    (hissued : ∀ k : AccId, t.transactionsOf p k = throughOf r.slots[k]) : t.Accesses := by
  refine ⟨fun q => ?_, fun q => ?_, fun q k => ?_⟩
  · rw [hb, Function.update_apply]
    split
    · exact hplaced
    · exact h.placed q
  · rw [hb, Function.update_apply]
    split
    · exact hheld
    · exact h.holdsOff q
  · rw [hb]
    by_cases e : q = p
    · subst e
      rw [Function.update_self]
      exact hissued k
    · rw [Function.update_of_ne e, hm q k e]
      exact h.issued q k

/-- A change of one port that leaves what is ISSUED. -/
theorem accesses_of_through (h : s.Accesses) (hb : t.bodies = Function.update s.bodies p r) (hm : t.mem = s.mem)
    (hplaced : r.Placed) (hheld : r.HoldsOff) (hthrough : ∀ k : AccId, throughOf r.slots[k] = throughOf (s.bodies p).slots[k]) :
    t.Accesses :=
  accesses_of_update h hb (fun q k _ => transactionsOf_of_mem hm q k) hplaced hheld fun k =>
    (transactionsOf_of_mem hm p k).trans ((h.issued p k).trans (hthrough k).symm)

/-- A port changes its state, with the same stalled access, if any. -/
theorem accesses_of_state {st : PortState} {params : LeaseParams} (h : s.Accesses)
    (hb : t.bodies = Function.update s.bodies p { s.bodies p with state := st, params := params }) (hm : t.mem = s.mem)
    (hst : ∀ k, st.StalledAt k ↔ (s.states p).StalledAt k) : t.Accesses :=
  accesses_of_through h hb hm ((h.placed p).of_state rfl rfl hst) (h.holdsOff p) fun _ => rfl

/-- One slot of a port changes but for its place in the arrival order. -/
theorem accesses_of_slot {k : AccId} {x : AccessSlot} (h : s.Accesses)
    (hb : t.bodies = Function.update s.bodies p { s.bodies p with slots := s.ports[p].slots.set k (some x) })
    (hm : ∀ q j, ¬ (p = q ∧ k = j) → t.transactionsOf q j = s.transactionsOf q j)
    (horder : ordered (some x) = ordered s.ports[p].slots[k]) (hstall : stalledSlot (some x) = stalledSlot s.ports[p].slots[k])
    (hissued : t.transactionsOf p k = throughOf (some x)) : t.Accesses := by
  refine accesses_of_update h hb (fun q j hq => hm q j fun e => hq e.1.symm) ((h.placed p).setSlot horder hstall)
    (fun hne j => ?_) fun j => ?_
  · show (s.ports[p].slots.set k (some x))[j].isSome = true
    rw [getElem_set_slot]
    split
    · rfl
    · exact h.holdsOff p hne j
  · show _ = throughOf (s.ports[p].slots.set k (some x))[j]
    rw [getElem_set_slot]
    split
    · next e => rw [← e]; exact hissued
    · next e => exact (hm p j fun e' => e e'.2).trans (h.issued p j)

/-- A port whose requests are accepted. -/
theorem accesses_of_acceptHeld (h : s.Accesses) (hb : t.bodies = Function.update s.bodies p r.acceptHeld) (hr : r.Placed)
    (hm : ∀ q k, q ≠ p → t.transactionsOf q k = s.transactionsOf q k)
    (hissued : ∀ k : AccId, t.transactionsOf p k = throughOf r.slots[k]) : t.Accesses := by
  obtain ⟨hplaced, hheld, hthrough⟩ := placed_acceptHeld hr
  exact accesses_of_update h hb hm hplaced hheld fun k => (hissued k).trans (hthrough k).symm

end Keep

/-! ## Translation -/

section Translation
variable {s : State} {p : PortId} {k : AccId} {a : Access}

theorem accesses_answerHead {kind : ResponseKind} (h : s.Accesses) (hhead : s.ports[p].head? = some (k, a)) :
    (s.answerHead p k a kind).Accesses := by
  have hslot := slot_of_head hhead
  refine accesses_of_slot h (bodies_answerHead ..) (fun q j _ => rfl) (by rw [hslot]; rfl) (by rw [hslot]; rfl) ?_
  exact ((h.issued p k).trans (congrArg throughOf hslot)).trans rfl

theorem issue_enqueue (m : MemPort) (p q : PortId) (x : Issued) :
    (m.enqueue p x).issue[q] = if p = q then m.issue[q] ++ [x] else m.issue[q] := by
  simp only [MemPort.enqueue, Fin.getElem_fin, Vector.getElem_set, Fin.val_inj]
  split
  · next e => subst e; rfl
  · rfl

/-- R33, R47: the transaction joins the issue queue of its port. -/
theorem transactionsOf_issueAccess (s : State) (p : PortId) (k : AccId) (a : Access) (n : SlotId) (frame : Frame) (q : PortId)
    (j : AccId) :
    (s.issueAccess p k a n frame).transactionsOf q j =
      (s.mem.issue[q].filter (·.access = j)).map (·.through) ++ (if p = q ∧ k = j then [n] else []) ++
        s.mem.entries.filterMap (OutEntry.throughFor q j) := by
  rw [transactionsOf_eq, issueAccess_mem, issue_enqueue]
  by_cases hp : p = q
  · by_cases hk : k = j <;> simp [hp, hk, MemPort.enqueue, issuedTransaction]
  · simp [hp, MemPort.enqueue]

theorem accesses_issueAccess {n : SlotId} {frame : Frame} (h : s.Accesses) (hhead : s.ports[p].head? = some (k, a)) :
    (s.issueAccess p k a n frame).Accesses := by
  have hslot := slot_of_head hhead
  refine accesses_of_slot h (bodies_issueAccess ..) (fun q j hne => ?_) (by rw [hslot]; rfl) (by rw [hslot]; rfl) ?_
  · rw [transactionsOf_issueAccess, if_neg hne, List.append_nil, transactionsOf_eq]
  · have hnone : s.transactionsOf p k = [] := (h.issued p k).trans (congrArg throughOf hslot)
    rw [transactionsOf_eq] at hnone
    obtain ⟨hissue, hentries⟩ := List.append_eq_nil_iff.1 hnone
    rw [transactionsOf_issueAccess, hissue, hentries, if_pos ⟨rfl, rfl⟩]
    rfl

theorem accesses_stallPort {b : Binding} {kind : FaultKind} (h : s.Accesses) (hhead : s.ports[p].head? = some (k, a))
    (hstate : s.ports[p].state = .attached b) : (s.stallPort p k a b kind).Accesses := by
  have hslot := slot_of_head hhead
  have hno (j : AccId) : stalledSlot (s.bodies p).slots[j] = false := Bool.eq_false_iff.2 fun hj => by
    have := ((h.placed p).stall j).1 hj
    rw [show (s.bodies p).state = .attached b from hstate] at this
    exact this
  have hset (j : AccId) : ((s.bodies p).stallOn k a b s.nextSequence s.stallLimit).slots[j] =
      if k = j then some { access := a, state := .stalled } else s.ports[p].slots[j] := getElem_set_slot ..
  refine accesses_of_through h (bodies_stallPort ..) (by simp [State.stallPort])
    ((h.placed p).of_slots rfl (fun j => ?_) fun j => ?_) (fun hne j => ?_) fun j => ?_
  · rw [hset]
    split
    · next e => subst e; exact (congrArg ordered hslot).symm
    · rfl
  · rw [hset]
    split
    · next e => exact ⟨fun _ => e, fun _ => rfl⟩
    · next e => exact ⟨fun hj => absurd hj (Bool.eq_false_iff.1 (hno j)), fun hj => absurd hj e⟩
  · rw [hset]
    split
    · rfl
    · exact h.holdsOff p hne j
  · rw [hset]
    split
    · next e => subst e; exact (congrArg throughOf hslot).symm
    · rfl

end Translation

/-! ## The memory port -/

section Memory
variable {s : State} {p : PortId}

/-- R23, R39: an access slot has at most one transaction, so that their order does not matter. -/
theorem transactionsOf_of_perm {t : State} (h : s.Accesses) {q : PortId} {k : AccId}
    (hperm : (t.transactionsOf q k).Perm (s.transactionsOf q k)) : t.transactionsOf q k = s.transactionsOf q k := by
  have hone := throughOf_eq (s.bodies q).slots[k]
  rw [← h.issued q k] at hone
  obtain hnil | ⟨n, hn⟩ := hone
  · rw [hnil] at hperm ⊢
    exact List.perm_nil.1 hperm
  · rw [hn] at hperm ⊢
    exact List.perm_singleton.1 hperm

theorem accesses_of_transactions {t : State} (h : s.Accesses) (hb : t.bodies = s.bodies)
    (hm : ∀ q k, t.transactionsOf q k = s.transactionsOf q k) : t.Accesses :=
  ⟨hb ▸ h.placed, hb ▸ h.holdsOff, fun q k => by rw [hm, hb]; exact h.issued q k⟩

theorem accesses_grantPort {q : Fin 7} {number : TxnId} (h : s.Accesses) : (s.grantPort q p number).Accesses := by
  cases hissue : s.mem.issue[p] with
  | nil =>
    rw [grantPort_of_nil s hissue]
    exact h
  | cons x rest =>
    refine accesses_of_transactions h (bodies_of_ports (grantPort_ports ..)) fun o k => transactionsOf_of_perm h ?_
    rw [transactionsOf_eq, transactionsOf_eq, grantPort_mem_of_cons s hissue, List.filterMap_append]
    have hqueue : (s.mem.issue.set p rest)[o] = if p = o then rest else s.mem.issue[o] := by
      simp [Vector.getElem_set, Fin.val_inj]
    rw [hqueue]
    by_cases hp : p = o
    · subst hp
      rw [if_pos rfl, hissue, List.filter_cons]
      by_cases hk : x.access = k
      · simp only [OutEntry.throughFor, hk, decide_true, and_self, if_true, List.map_cons, List.filterMap_cons,
          List.filterMap_nil, List.cons_append]
        rw [← List.append_assoc]
        exact List.perm_append_singleton ..
      · simp [OutEntry.throughFor, hk]
    · simp [OutEntry.throughFor, hp]

theorem accesses_grantLoad {q : Fin 7} {number : TxnId} (h : s.Accesses) : (s.grantLoad q number).Accesses := by
  refine accesses_of_transactions h (bodies_of_ports (grantLoad_ports ..)) fun o k => ?_
  obtain hsame | ⟨j, rest, done, -, -, hgrant⟩ := grantLoad_cases s q number
  · rw [hsame]
  · rw [transactionsOf_eq, transactionsOf_eq, hgrant]
    simp [State.send, OutEntry.throughFor]

/-- R55: the transactions once an entry has left the outstanding set. -/
theorem transactionsOf_answered {t : State} {x : MemAnswer} {before after : List OutEntry} {e : OutEntry}
    (hx : s.Answers x before e after) (hentries : t.mem.entries = before ++ after) (hissue : t.mem.issue = s.mem.issue)
    (q : PortId) (k : AccId) :
    (s.transactionsOf q k).Perm ((e.throughFor q k).toList ++ t.transactionsOf q k) := by
  obtain ⟨-, hs, -, -⟩ := hx
  rw [transactionsOf_eq, transactionsOf_eq, hs, hentries, hissue, List.filterMap_append, List.filterMap_append]
  cases hthrough : e.throughFor q k with
  | none => simp [hthrough]
  | some n =>
    rw [List.filterMap_cons_some hthrough, Option.toList_some, List.singleton_append, ← List.append_assoc,
      ← List.append_assoc]
    exact List.perm_middle

theorem accesses_of_otherAnswer {t : State} {x : MemAnswer} {before after : List OutEntry} {e : OutEntry} (h : s.Accesses)
    (hx : s.Answers x before e after) (he : e.requester = .loadEngine) (hentries : t.mem.entries = before ++ after)
    (hissue : t.mem.issue = s.mem.issue) (hb : t.bodies = s.bodies) : t.Accesses := by
  refine accesses_of_transactions h hb fun q k => transactionsOf_of_perm h ?_
  have hperm := transactionsOf_answered hx hentries hissue q k
  rw [throughFor_of_loadEngine he] at hperm
  exact hperm.symm

/-- R38, R39: an access slot whose transaction is answered is ISSUED, and its transaction was the only one. -/
theorem accesses_placeAnswer {t : State} {x : MemAnswer} {before after : List OutEntry} {e : OutEntry} {k : AccId}
    {n : SlotId} (h : s.Accesses) (hx : s.Answers x before e after) (he : e.requester = .port p k n)
    (hentries : t.mem.entries = before ++ after) (hissue : t.mem.issue = s.mem.issue)
    (hb : t.bodies = Function.update s.bodies p (s.ports[p].placeAnswer k x.outcome x.data).body) : t.Accesses := by
  have hperm := transactionsOf_answered hx hentries hissue
  have hother (q : PortId) (j : AccId) (hne : ¬ (p = q ∧ k = j)) : t.transactionsOf q j = s.transactionsOf q j := by
    have hqj := hperm q j
    rw [throughFor_of_port he, if_neg hne] at hqj
    exact transactionsOf_of_perm h hqj.symm
  have hslot := hperm p k
  rw [throughFor_of_port he, if_pos ⟨rfl, rfl⟩, h.issued p k] at hslot
  obtain hnil | ⟨m, hm⟩ := throughOf_eq (s.bodies p).slots[k]
  · rw [hnil] at hslot
    exact absurd (List.nil_perm.1 hslot) nofun
  rw [hm] at hslot
  have hnone : t.transactionsOf p k = [] := (List.cons.inj (List.singleton_perm.1 hslot)).2.symm
  change throughOf s.ports[p].slots[k] = [m] at hm
  unfold PortRec.placeAnswer at hb
  split at hb
  case h_1 a through hk =>
    exact accesses_of_slot h hb hother (by rw [hk]; rfl) (by rw [hk]; rfl) hnone
  case h_2 a through hk =>
    refine accesses_of_acceptHeld (r := { s.bodies p with slots := s.ports[p].slots.set k none }) h
      (hb.trans (congrArg _ (acceptHeld_body _))) ((h.placed p).freeUnordered ?_ ?_) (fun q j hq => hother q j fun e => hq e.1.symm)
      fun j => ?_
    · exact congrArg ordered hk
    · exact congrArg stalledSlot hk
    · show _ = throughOf (s.ports[p].slots.set k none)[j]
      rw [getElem_set_slot]
      split
      · next e => subst e; exact hnone
      · next e => exact (hother p j fun e' => e e'.2).trans (h.issued p j)
  case h_3 hunmarked hmarked =>
    cases hk : s.ports[p].slots[k] with
    | none => rw [hk] at hm; cases hm
    | some y =>
      obtain ⟨a, st⟩ := y
      rw [hk] at hm
      cases st with
      | issued through mark =>
        cases mark with
        | false => exact absurd hk (hunmarked a through)
        | true => exact absurd hk (hmarked a through)
      | untranslated | stalled | answered => cases hm

end Memory

/-! ## Ports that lose or end a stall -/

section Stalls
variable {s t : State} {p : PortId}

/-- Each slot of a port is answered or stays as it was, and none is STALLED afterwards. -/
theorem answerFenced_slots (r : PortRec) (k : AccId) :
    ordered r.answerFenced.slots[k] = ordered r.slots[k] ∧ stalledSlot r.answerFenced.slots[k] = false ∧
      (r.slots[k].isSome = true → r.answerFenced.slots[k].isSome = true) ∧
      throughOf r.answerFenced.slots[k] = throughOf r.slots[k] := by
  have hslot : r.answerFenced.slots[k] = r.slots[k].bind fun a => match a.state with
      | .untranslated | .stalled => some (a.answer .errFenced)
      | .issued _ _ | .answered _ _ => some a :=
    Vector.getElem_ofFn k.isLt
  rw [hslot]
  cases r.slots[k] with
  | none => exact ⟨rfl, rfl, id, rfl⟩
  | some y =>
    obtain ⟨a, st⟩ := y
    cases st with
    | untranslated | stalled | issued | answered => exact ⟨rfl, rfl, id, rfl⟩

theorem accesses_enterFenced {cause : Option LeaseKind} (h : s.Accesses) : (s.enterFenced p cause).Accesses := by
  have hslots := answerFenced_slots s.ports[p]
  refine accesses_of_through h (bodies_enterFenced ..) (State.enterFenced_mem ..)
    ((h.placed p).of_slots rfl (fun k => (hslots k).1) fun k => ?_) (fun hne k => (hslots k).2.2.1 (h.holdsOff p hne k))
    fun k => (hslots k).2.2.2
  show stalledSlot s.ports[p].answerFenced.slots[k] = true ↔ False
  rw [(hslots k).2.1]
  exact ⟨nofun, False.elim⟩

theorem accesses_endStall {b : Binding} {st : Stall} {f : AccessSlot → AccessSlot} (h : s.Accesses)
    (hstate : s.ports[p].state = .stalled b st)
    (hf : (f = ({ · with state := .untranslated })) ∨ ∃ kind, f = (·.answer kind)) : (s.endStall p f).Accesses := by
  have hstall (k : AccId) : stalledSlot s.ports[p].slots[k] = true ↔ st.access = k := by
    have hk := (h.placed p).stall k
    rwa [show (s.bodies p).state = .stalled b st from hstate] at hk
  have hf' (a : AccessSlot) :
      (f a).inOrder = true ∧ stalledSlot (some (f a)) = false ∧ throughOf (some (f a)) = [] := by
    obtain rfl | ⟨kind, rfl⟩ := hf <;> exact ⟨rfl, rfl, rfl⟩
  obtain ⟨y, hy⟩ : ∃ y, s.ports[p].slots[st.access] = some y := by
    cases hslot : s.ports[p].slots[st.access] with
    | some y => exact ⟨y, rfl⟩
    | none =>
      have := (hstall st.access).2 rfl
      rw [hslot] at this
      cases this
  have hystall : y.state = .stalled := by
    have := (hstall st.access).2 rfl
    rw [hy] at this
    exact of_decide_eq_true this
  have hset (k : AccId) : (s.ports[p].slots.set st.access (s.ports[p].slots[st.access].map f))[k] =
      if st.access = k then some (f y) else s.ports[p].slots[k] := by
    rw [getElem_set_slot, hy]
    rfl
  obtain ⟨horder, hnostall, hthrough⟩ := hf' y
  refine accesses_of_through h (bodies_endStall s f hstate) (State.endStall_mem ..)
    ((h.placed p).of_slots rfl (fun k => ?_) fun k => ?_) (fun hne k => ?_) fun k => ?_
  · rw [hset]
    split
    · next e =>
      subst e
      have hbefore : ordered s.ports[p].slots[st.access] = true := by
        rw [hy]
        simp [ordered, AccessSlot.inOrder, hystall]
      exact Eq.trans horder hbefore.symm
    · rfl
  · rw [hset]
    show _ ↔ False
    split
    · rw [hnostall]
      exact ⟨nofun, False.elim⟩
    · next e => exact ⟨fun hk => e ((hstall k).1 hk), False.elim⟩
  · rw [hset]
    split
    · rfl
    · exact h.holdsOff p hne k
  · rw [hset]
    split
    · next e =>
      subst e
      have hbefore : throughOf s.ports[p].slots[st.access] = [] := by
        rw [hy]
        simp [throughOf, hystall]
      exact hthrough.trans hbefore.symm
    · rfl

/-- R113: the slots of a port after its reset stand in no arrival order, and what is ISSUED stays. -/
theorem emptyAccesses_slots (r : PortRec) (k : AccId) :
    ordered r.emptyAccesses.slots[k] = false ∧ stalledSlot r.emptyAccesses.slots[k] = false ∧
      throughOf r.emptyAccesses.slots[k] = throughOf r.slots[k] := by
  have hslot : r.emptyAccesses.slots[k] = r.slots[k].bind fun a => match a.state with
      | .issued n _ => some { a with state := .issued n true }
      | .untranslated | .stalled | .answered _ _ => none :=
    Vector.getElem_ofFn k.isLt
  rw [hslot]
  cases r.slots[k] with
  | none => exact ⟨rfl, rfl, rfl⟩
  | some y =>
    obtain ⟨a, st⟩ := y
    cases st with
    | untranslated | stalled | issued | answered => exact ⟨rfl, rfl, rfl⟩

theorem accesses_portReset (h : s.Accesses) (hreset : exec (.portReset p) s = .next t) : t.Accesses := by
  have hslots := emptyAccesses_slots s.ports[p]
  refine accesses_of_acceptHeld h (bodies_portReset hreset) ⟨List.nodup_nil, fun k => ?_, fun k => ?_⟩
    (fun q k _ => transactionsOf_of_mem (mem_portReset hreset) q k) fun k => ?_
  · show k ∈ [] ↔ ordered s.ports[p].emptyAccesses.slots[k] = true
    rw [(hslots k).1]
    exact ⟨nofun, nofun⟩
  · show stalledSlot s.ports[p].emptyAccesses.slots[k] = true ↔ s.ports[p].state.afterReset.StalledAt k
    rw [(hslots k).2.1]
    cases s.ports[p].state <;> exact ⟨nofun, False.elim⟩
  · rw [transactionsOf_of_mem (mem_portReset hreset), h.issued]
    exact (hslots k).2.2.symm

end Stalls

theorem resetAccesses_sound : State.reset.Accesses :=
  (accesses_iff _).2 ⟨resetIsSound.arrivalsSound, resetIsSound.stallsSound, resetIsSound.issuedSound⟩

/-- R24: each port accepts what its request channel holds once a device reset has emptied its access slots. -/
theorem accesses_deviceReset (s : State) : s.deviceReset.acceptAll.Accesses := by
  have hreset := resetAccesses_sound
  have hplaced (p : PortId) : PortRec.Placed { PortRec.reset with requests := s.ports[p].requests } := by
    have hp := hreset.placed p
    rw [bodies_reset] at hp
    exact hp.of_state rfl rfl fun _ => Iff.rfl
  have hbody (p : PortId) := placed_acceptHeld (hplaced p)
  refine ⟨fun p => ?_, fun p => ?_, fun p k => ?_⟩
  · rw [bodies_deviceReset]
    exact (hbody p).1
  · rw [bodies_deviceReset]
    exact (hbody p).2.1
  · rw [bodies_deviceReset, (hbody p).2.2]
    have hk := hreset.issued p k
    rw [bodies_reset] at hk
    exact hk

/-- R22 to R24, R33, R39, R40, R47, R113, R127, R143, R148: a request comes into a free slot, an issue makes a transaction of it,
a grant passes the transaction on, its answer ends it, and only a stall makes a slot STALLED. -/
theorem accesses_part {E C : Prop} {s t : State} (hpart : Part E C s t) (h : s.Accesses) : t.Accesses := by
  cases hpart
  case control hc _ => exact accesses_of_frames h hc.bodies hc.mem
  case requested p x =>
    refine accesses_of_acceptHeld (r := { s.bodies p with requests := s.ports[p].requests ++ [x] }) h ?_
      ((h.placed p).of_state rfl rfl fun _ => Iff.rfl) (fun q k _ => rfl) (h.issued p)
    exact (bodies_modifyPort s p fun r => PortRec.acceptHeld { r with requests := r.requests ++ [x] }).trans
      (congrArg _ (acceptHeld_body _))
  case delivered p k rest a response through harrival hslot =>
    refine accesses_of_acceptHeld (p := p)
      (r := { s.bodies p with slots := s.ports[p].slots.set k none, arrival := rest }) h ?_
      ((h.placed p).freeOldest harrival (congrArg stalledSlot hslot)) (fun q k _ => rfl) fun j => ?_
    · exact (bodies_modifyPort s p fun r => PortRec.acceptHeld { r with slots := r.slots.set k none, arrival := rest }).trans
        (congrArg _ (acceptHeld_body _))
    · have hj : s.transactionsOf p j = throughOf s.ports[p].slots[j] := h.issued p j
      refine hj.trans ?_
      show throughOf s.ports[p].slots[j] = throughOf (s.ports[p].slots.set k none)[j]
      rw [getElem_set_slot]
      split
      · next e => subst e; rw [hslot]; rfl
      · rfl
  case headAnswered hhead => exact accesses_answerHead h hhead
  case headIssued hhead _ => exact accesses_issueAccess h hhead
  case headStalled hhead hstate => exact accesses_stallPort h hhead hstate
  case portGranted => exact accesses_grantPort h
  case loadGranted => exact accesses_grantLoad h
  case accessAnswered p k through m hx he _ =>
    exact accesses_placeAnswer h hx he rfl rfl (bodies_modifyPort { s with mem := _ } p (·.placeAnswer k _ _))
  case loadAnswered hx he _ => exact accesses_of_otherAnswer h hx he rfl rfl rfl
  case leaseCounted p b hstate _ =>
    refine accesses_of_state (p := p) (st := .attached { b with lease := s.ports[p].params.count b.lease })
      (params := s.ports[p].params) h ?_ rfl fun k => ?_
    · refine (bodies_modifyPort s p (·.countTick b)).trans (congrArg _ ?_)
      rw [countTick_eq]
      split <;> rfl
    · rw [states_apply, hstate]
      rfl
  case leaseRenewed p b hstate =>
    refine accesses_of_state (p := p) (st := .attached { b with lease := s.ports[p].params.renew b.lease })
      (params := s.ports[p].params) h (bodies_modifyPort ..) rfl fun k => ?_
    rw [states_apply, hstate]
    rfl
  case timerLowered p b st n hstate _ _ =>
    refine accesses_of_state (params := s.ports[p].params) h
      (bodies_modifyPort s p ({ · with state := .stalled b { st with timer := some (n - 1) } })) rfl fun k => ?_
    rw [states_apply, hstate]
    rfl
  case fenced => exact accesses_enterFenced h
  case stallEnded hstate hf => exact accesses_endStall h hstate hf
  case configured | loadAccepted | loadsAborted | edited | committed | swapped | unsealed => exact accesses_of_frames h rfl rfl
  case bound q n hstate =>
    refine accesses_of_state (p := q) (st := .attached { slot := n, lease := s.ports[q].params.start }) (params := s.ports[q].params) h
      (bodies_modifyPort s q fun r => { r with state := .attached { slot := n, lease := r.params.start } }) rfl fun k => ?_
    rw [states_apply, hstate]
    rfl
  case rebound q b n hstate _ =>
    refine accesses_of_state (p := q) (st := .attached { b with slot := n }) (params := s.ports[q].params) h
      ((bodies_leaveWaiting ..).trans (bodies_modifyPort s q ({ · with state := .attached { b with slot := n } }))) ?_
      fun k => ?_
    · simp [State.raiseBinders, State.lowerBinders]
    · rw [states_apply, hstate]
      rfl
  case unbound q b hstate =>
    refine accesses_of_state (params := s.ports[q].params) h (bodies_detach ..) (by simp) fun k => ?_
    rw [states_apply, hstate]
    rfl
  case leaseParamsSet q l _ _ _ =>
    exact accesses_of_state (st := s.ports[q].state) (params := l) h (bodies_modifyPort ..) rfl fun k => Iff.rfl
  case unfenced q hstate =>
    refine accesses_of_state (params := s.ports[q].params) h
      (bodies_modifyPort (s.retireLease q) q ({ · with state := .detached })) rfl fun k => ?_
    rw [states_apply, hstate]
    rfl
  case rightsMoved => exact accesses_of_frames h (bodies_moveRights ..) rfl
  case waitingLeft => exact accesses_of_frames h (bodies_leaveWaiting ..) (by simp)
  case portReset hreset => exact accesses_portReset h hreset
  case deviceReset => exact accesses_deviceReset s
  case poweredUp => exact accesses_of_frames resetAccesses_sound rfl rfl

/-- Settles O12: what every part keeps, every step keeps. -/
theorem accessSlotsKept : Obligations.AccessSlotsKept := fun _ _ hs h =>
  (accesses_iff _).1 (step_keep (fun _ _ => accesses_part) ((accesses_iff _).2 hs) h)

end Sys2Proof.Machine
end

section
/-! Rules over every command: who sets a ROLE flag (O57) and what changes a live image (O58). -/

namespace Sys2Proof.Machine

/-! ## A change of role sets the ROLE flag -/

/-- From `s` to `t` the ROLE flag of port `q` is not cleared, and it is set if the role of `q` changes (R158). -/
structure State.MarksRole (q : PortId) (s t : State) : Prop where
  keeps : s.ports[q].flags.getLsbD 4 = true → t.ports[q].flags.getLsbD 4 = true
  marks : t.rights.role q ≠ s.rights.role q → t.ports[q].flags.getLsbD 4 = true

section MarksRole
variable {q : PortId} {s t u : State}

theorem State.MarksRole.refl (s : State) : s.MarksRole q s := ⟨id, fun h => absurd rfl h⟩

theorem State.MarksRole.trans (h : s.MarksRole q t) (h' : t.MarksRole q u) : s.MarksRole q u := by
  refine ⟨fun hs => h'.keeps (h.keeps hs), fun hne => ?_⟩
  by_cases e : u.rights.role q = t.rights.role q
  · exact h'.keeps (h.marks (e ▸ hne))
  · exact h'.marks e

theorem marksRole_of_rights (hr : t.rights = s.rights)
    (h : s.ports[q].flags.getLsbD 4 = true → t.ports[q].flags.getLsbD 4 = true) : s.MarksRole q t :=
  ⟨h, fun hne => absurd (by rw [hr]) hne⟩

variable (h : s.MarksRole q t)
include h

theorem State.MarksRole.ports (hr : u.rights = t.rights) (hp : u.ports = t.ports) : s.MarksRole q u :=
  h.trans (marksRole_of_rights hr fun hq => by rwa [hp])

theorem State.MarksRole.modifySlot (n : SlotId) (f : MapSlot → MapSlot) : s.MarksRole q (t.modifySlot n f) := h.ports rfl rfl

theorem State.MarksRole.modifyPort {p : PortId} {f : PortRec → PortRec}
    (hf : t.ports[p].flags.getLsbD 4 = true → (f t.ports[p]).flags.getLsbD 4 = true) : s.MarksRole q (t.modifyPort p f) :=
  h.trans (marksRole_of_rights rfl (keepsRoleFlags_modifyPort hf q))

theorem State.MarksRole.modifyPort_of_flags {p : PortId} {f : PortRec → PortRec}
    (hf : (f t.ports[p]).flags = t.ports[p].flags) : s.MarksRole q (t.modifyPort p f) := h.modifyPort fun hp => by rwa [hf]

theorem State.MarksRole.modifyPort_of_ne {p : PortId} {f : PortRec → PortRec} (hne : p ≠ q) :
    s.MarksRole q (t.modifyPort p f) :=
  h.trans <| marksRole_of_rights rfl fun hq => by
    rw [Fin.getElem_fin, State.ports_modifyPort_ne t f hne]
    exact hq

theorem State.MarksRole.raise (p : PortId) (f : Flag) : s.MarksRole q (t.modifyPort p (·.raise f)) :=
  h.modifyPort (raise_role_of_role _ f)

theorem State.MarksRole.moveRights (x : Holdings) : s.MarksRole q (t.moveRights x) := by
  have hport : (t.moveRights x).ports[q] = if t.rights.role q = x.role q then t.ports[q] else t.ports[q].raise .role :=
    State.ports_moveRights t x q
  refine h.trans ⟨fun hs => ?_, fun hne => ?_⟩
  · rw [hport]
    split
    · exact hs
    · exact raise_role_of_role _ _ hs
  · rw [hport, if_neg fun e => hne e.symm]
    simp [PortRec.raise, Flag.mask, Flag.place]

theorem State.MarksRole.complete (x : Taken) (status : Status) (r : Option Result) :
    s.MarksRole q (t.complete x status r) := by
  unfold State.complete State.join
  refine h.modifyPort fun hp => ?_
  exact raise_role_of_role { t.ports[x.port] with completions := _ } .completion hp

theorem State.MarksRole.raiseSupervisor (f : Flag) : s.MarksRole q (t.raiseSupervisor f) := by
  unfold State.raiseSupervisor
  split
  · exact h.raise ..
  · exact h

theorem State.MarksRole.joinFault (p : PortId) (body : FaultBody) : s.MarksRole q (t.joinFault p body) := by
  unfold State.joinFault
  refine State.MarksRole.raiseSupervisor ?_ .fault
  exact h.ports rfl rfl

theorem State.MarksRole.recordViolation (p : PortId) (held : Bool) (cause : Option LeaseKind) :
    s.MarksRole q (t.recordViolation p held cause) := by
  cases cause with
  | none => exact h
  | some kind => exact h.joinFault ..

theorem State.MarksRole.completeCommit (c : PendingCommit) (status : Status) (r : Option Result) :
    s.MarksRole q (t.completeCommit c status r) := by
  unfold State.completeCommit
  split
  · exact h.complete ..
  · exact h

theorem State.MarksRole.leaveWaiting (p : PortId) (n : SlotId) : s.MarksRole q (t.leaveWaiting p n) := by
  unfold State.leaveWaiting
  split
  case h_2 | h_3 => exact h
  split
  · exact h
  split
  case isFalse => exact h
  split
  · exact (h.modifySlot ..).completeCommit ..
  · exact h.modifySlot ..

theorem State.MarksRole.detach (p : PortId) (st : PortState) : s.MarksRole q (t.detach p st) := by
  have hstate : s.MarksRole q (t.modifyPort p ({ · with state := st })) := h.modifyPort_of_flags rfl
  unfold State.detach
  split
  · exact (hstate.modifySlot ..).leaveWaiting ..
  · exact hstate

theorem State.MarksRole.endRoles (p : PortId) : s.MarksRole q (t.endRoles p) := by
  unfold State.endRoles State.succession
  split
  · split
    · exact h.moveRights _
    · split <;> exact h.moveRights _
  · exact h.moveRights _

theorem State.MarksRole.enterFenced (p : PortId) (cause : Option LeaseKind) : s.MarksRole q (t.enterFenced p cause) := by
  have hanswered : s.MarksRole q (t.modifyPort p (·.answerFenced)) := h.modifyPort_of_flags rfl
  have hretired : s.MarksRole q ((t.modifyPort p (·.answerFenced)).retireAccess p) := hanswered.ports rfl rfl
  exact (((hretired.detach ..).endRoles ..).recordViolation ..).raise ..

theorem State.MarksRole.endStall (p : PortId) (f : AccessSlot → AccessSlot) : s.MarksRole q (t.endStall p f) := by
  have hretired : s.MarksRole q (t.retireAccess p) := h.ports rfl rfl
  unfold State.endStall
  split
  · exact hretired.modifyPort_of_flags rfl
  all_goals exact h

theorem State.MarksRole.stallPort (p : PortId) (k : AccId) (a : Access) (b : Binding) (kind : FaultKind) :
    s.MarksRole q (t.stallPort p k a b kind) :=
  State.MarksRole.leaveWaiting ((h.joinFault ..).modifyPort_of_flags rfl) ..

theorem State.MarksRole.countTick (p : PortId) (b : Binding) : s.MarksRole q (t.modifyPort p (·.countTick b)) := by
  refine h.modifyPort fun hp => ?_
  unfold PortRec.countTick
  split
  · exact raise_role_of_role { t.ports[p] with state := _ } .leaseWarn hp
  · exact hp

theorem State.MarksRole.resetState (p : PortId) : s.MarksRole q (t.resetState p) := by
  have hretired : s.MarksRole q (t.retireAccess p) := h.ports rfl rfl
  unfold State.resetState
  split
  · exact hretired.detach ..
  · exact hretired.detach ..
  all_goals exact h

omit h

@[simp] theorem placeAnswer_flags (r : PortRec) (k : AccId) (outcome : MemOutcome) (data : List Byte) :
    (r.placeAnswer k outcome data).flags = r.flags := by
  unfold PortRec.placeAnswer
  split
  · rfl
  · exact acceptHeld_flags _
  · rfl

/-- R158: each part that cannot clear a ROLE flag sets those of the ports whose roles it changes. -/
theorem marksRole_part {E : Prop} (hpart : Part E False s t) : s.MarksRole q t := by
  have h := State.MarksRole.refl (q := q) s
  cases hpart
  case control hc hflags => exact marksRole_of_rights hc.rights (hflags.resolve_left id q)
  case requested | delivered => exact h.modifyPort_of_flags (acceptHeld_flags _)
  case headAnswered | leaseRenewed | timerLowered | leaseParamsSet => exact h.modifyPort_of_flags rfl
  case headIssued p k a b frame _ _ =>
    have hslot : s.MarksRole q
        (s.modifyPort p fun r => { r with slots := r.slots.set k (some { access := a, state := .issued b.slot false }) }) :=
      h.modifyPort_of_flags rfl
    exact hslot.ports rfl rfl
  case headStalled => exact h.stallPort ..
  case portGranted => exact h.ports (grantPort_rights ..) (grantPort_ports ..)
  case loadGranted => exact h.ports (grantLoad_rights ..) (grantLoad_ports ..)
  case accessAnswered x before after e p k through m _ _ _ =>
    have hmem : s.MarksRole q { s with mem := { s.mem with entries := before ++ after } } := h.ports rfl rfl
    exact (hmem.modifyPort_of_flags (placeAnswer_flags ..)).modifySlot ..
  case loadAnswered | edited | loadAccepted | loadsAborted | committed | swapped | unsealed | configured =>
    exact h.ports rfl rfl
  case leaseCounted => exact h.countTick ..
  case fenced => exact h.enterFenced ..
  case stallEnded => exact h.endStall ..
  case bound => exact State.MarksRole.modifySlot (h.modifyPort_of_flags rfl) ..
  case rebound =>
    exact State.MarksRole.leaveWaiting
      (State.MarksRole.modifySlot (State.MarksRole.modifySlot (h.modifyPort_of_flags rfl) ..) ..) ..
  case unbound => exact h.detach ..
  case unfenced p _ =>
    have hretired : s.MarksRole q (s.retireLease p) := h.ports rfl rfl
    exact hretired.modifyPort_of_flags rfl
  case rightsMoved => exact h.moveRights _
  case waitingLeft => exact h.leaveWaiting ..
  case portReset hC _ => exact hC.elim
  case deviceReset _ hC => exact hC.elim
  case poweredUp _ hC => exact hC.elim

theorem marksRole_parts {E : Prop} (h : Parts E False s t) : s.MarksRole q t := by
  induction h with
  | refl => exact .refl s
  | tail _ hpart ih => exact ih.trans (marksRole_part hpart)

/-- R112 to R115: of a port reset another port keeps its ROLE flag. -/
theorem marksRole_portReset {p : PortId} (hne : p ≠ q) (h : exec (.portReset p) s = .next t) : s.MarksRole q t := by
  obtain rfl := Host.Outcome.next.inj ((exec_portReset s p).symm.trans h)
  have hdisowned : s.MarksRole q ((s.modifyPort p (·.emptyControl)).disown p) :=
    ((State.MarksRole.refl s).modifyPort_of_ne (f := (·.emptyControl)) hne).ports rfl rfl
  have haccesses : s.MarksRole q (s.resetAccesses p) := hdisowned.modifyPort_of_ne hne
  exact (((haccesses.resetState p).endRoles p).modifyPort_of_ne hne).modifyPort_of_ne hne

end MarksRole

/-- Settles O57: the writes to the flag word change no role, and every other command keeps the ROLE flags of the ports it does not
reset. -/
theorem roleChangesRaiseFlag : Obligations.RoleChangesRaiseFlag := by
  intro i s t q h hreset hdevice hpower hrole
  by_cases hC : MayClearRole i
  case neg => exact (marksRole_parts (E := True) (parts_exec h (fun _ => trivial) hC)).marks hrole
  cases i
  case portReset p => exact (marksRole_portReset (fun e => hreset (congrArg _ e)) h).marks hrole
  case deviceReset => exact absurd rfl hdevice
  case powerUp => exact absurd rfl hpower
  case flagWordWrite =>
    cases h
    exact absurd rfl hrole
  case apertureWrite p addr whole value =>
    have hrights : (s.apertureWrite p addr whole value).rights = s.rights := by
      unfold State.apertureWrite
      rw [show addr % 64 = 0x24 from hC]
      cases whole <;> rfl
    obtain rfl := Host.Outcome.next.inj h
    exact absurd (by rw [hrights]) hrole
  all_goals exact hC.elim

/-! ## Only a swap changes a live image -/

/-- How a map slot can change without an edit (R3, R15): it keeps both images and stays CLEAN or not CLEAN, or it is swapped. -/
def MapSlot.KeptOrSwapped (m m' : MapSlot) : Prop :=
  m'.staged = m.staged ∧
    (m'.live = m.live ∧ (m'.condition = .clean ↔ m.condition = .clean) ∨
      m'.live = m.staged ∧ m'.condition = .clean ∧ m.condition ≠ .clean)

section KeptOrSwapped
variable {m m' m'' : MapSlot} {s t u : State} {n : SlotId}

theorem MapSlot.KeptOrSwapped.kept (hs : m'.staged = m.staged) (hl : m'.live = m.live)
    (hc : m'.condition = .clean ↔ m.condition = .clean) : m.KeptOrSwapped m' := ⟨hs, .inl ⟨hl, hc⟩⟩

theorem MapSlot.KeptOrSwapped.refl (m : MapSlot) : m.KeptOrSwapped m := .kept rfl rfl Iff.rfl

/-- A slot that a swap has made CLEAN is not swapped again. -/
theorem MapSlot.KeptOrSwapped.trans (h : m.KeptOrSwapped m') (h' : m'.KeptOrSwapped m'') : m.KeptOrSwapped m'' := by
  obtain ⟨hs, h⟩ := h
  obtain ⟨hs', h'⟩ := h'
  refine ⟨hs'.trans hs, ?_⟩
  obtain ⟨hl, hc⟩ | ⟨hl, hc, hno⟩ := h
  · obtain ⟨hl', hc'⟩ | ⟨hl', hc', hno'⟩ := h'
    · exact .inl ⟨hl'.trans hl, hc'.trans hc⟩
    · exact .inr ⟨hl'.trans hs, hc', mt hc.2 hno'⟩
  · obtain ⟨hl', hc'⟩ | ⟨-, -, hno'⟩ := h'
    · exact .inr ⟨hl'.trans hl, hc'.2 hc, hno⟩
    · exact absurd hc hno'

theorem keptOrSwapped_swapped (h : m.condition ≠ .clean) : m.KeptOrSwapped m.swapped := ⟨rfl, .inr ⟨rfl, rfl, h⟩⟩

theorem keptOrSwapped_of_leftBy {p : PortId} (h : m.LeftBy p m') : m.KeptOrSwapped m' := by
  cases h with
  | stays => exact .refl m
  | swaps hc => exact keptOrSwapped_swapped (by simp [hc])
  | shrinks hc => exact .kept rfl rfl (by simp [hc])

theorem keptOrSwapped_of_slots (h : t.slots = s.slots) : (s.slot n).KeptOrSwapped (t.slot n) := by
  rw [slot_of_slots h]
  exact .refl _

theorem keptOrSwapped_modifySlot {k : SlotId} {f : MapSlot → MapSlot} (h : (s.slot k).KeptOrSwapped (f (s.slot k))) :
    (s.slot n).KeptOrSwapped ((s.modifySlot k f).slot n) := by
  by_cases e : k = n
  · subst e
    rwa [slot_modifySlot_self]
  · rw [slot_modifySlot_of_ne s f e]
    exact .refl _

theorem keptOrSwapped_leaveWaiting (p : PortId) (k : SlotId) : (s.slot n).KeptOrSwapped ((s.leaveWaiting p k).slot n) := by
  by_cases e : k = n
  · subst e
    exact keptOrSwapped_of_leftBy (leftBy_leaveWaiting s p k)
  · rw [slot_leaveWaiting_of_ne s p e]
    exact .refl _

theorem keptOrSwapped_detach (p : PortId) (st : PortState) : (s.slot n).KeptOrSwapped ((s.detach p st).slot n) := by
  unfold State.detach
  split
  · refine ((keptOrSwapped_of_slots rfl).trans ?_).trans (keptOrSwapped_leaveWaiting ..)
    exact keptOrSwapped_modifySlot (s := s.modifyPort p ({ · with state := st })) (.kept rfl rfl Iff.rfl)
  · exact keptOrSwapped_of_slots rfl

theorem keptOrSwapped_enterFenced (p : PortId) (cause : Option LeaseKind) :
    (s.slot n).KeptOrSwapped ((s.enterFenced p cause).slot n) := by
  have hdetach := keptOrSwapped_detach (s := (s.modifyPort p (·.answerFenced)).retireAccess p) (n := n) p .fenced
  refine hdetach.trans (keptOrSwapped_of_slots ?_)
  unfold State.enterFenced
  simp

theorem keptOrSwapped_resetState (p : PortId) : (s.slot n).KeptOrSwapped ((s.resetState p).slot n) := by
  have hdetach : (s.slot n).KeptOrSwapped (((s.retireAccess p).detach p .detached).slot n) :=
    keptOrSwapped_detach (s := s.retireAccess p) ..
  unfold State.resetState
  split
  · exact hdetach
  · exact hdetach
  all_goals exact .refl _

theorem keptOrSwapped_portReset {p : PortId} (h : exec (.portReset p) s = .next t) : (s.slot n).KeptOrSwapped (t.slot n) := by
  obtain rfl := Host.Outcome.next.inj ((exec_portReset s p).symm.trans h)
  have haccesses : (s.slot n).KeptOrSwapped ((s.resetAccesses p).slot n) := by
    have hslot : (s.resetAccesses p).slot n = { s.slot n with condition := (s.slot n).condition.disown p } := by
      simp [State.resetAccesses, State.disown]
    rw [hslot]
    refine .kept rfl rfl ?_
    cases (s.slot n).condition <;> simp [Condition.disown]
  refine (haccesses.trans (keptOrSwapped_resetState p)).trans (keptOrSwapped_of_slots ?_)
  exact State.endRoles_slots ((s.resetAccesses p).resetState p) p

/-- R3, R15: each part but an edit and a reset of the hub keeps the images of every slot or swaps them. -/
theorem keptOrSwapped_part {C : Prop} (hpart : Part False C s t) : (s.slot n).KeptOrSwapped (t.slot n) := by
  cases hpart
  case control hc _ => exact keptOrSwapped_of_slots hc.slots
  case requested | delivered | headAnswered | leaseCounted | leaseRenewed | timerLowered | leaseParamsSet | unfenced
      | rightsMoved | configured | loadAccepted | loadsAborted | loadAnswered =>
    exact keptOrSwapped_of_slots rfl
  case headIssued p k a b frame _ _ =>
    exact keptOrSwapped_modifySlot (k := b.slot) (f := fun m => { m with inFlight := m.inFlight + 1 }) (.kept rfl rfl Iff.rfl)
  case headStalled p k a b kind _ _ =>
    refine (keptOrSwapped_of_slots ?_).trans (keptOrSwapped_leaveWaiting ..)
    simp
  case portGranted | loadGranted | stallEnded => exact keptOrSwapped_of_slots (by simp)
  case accessAnswered through m _ _ hm =>
    refine keptOrSwapped_modifySlot (f := fun _ => m) ?_
    cases hm with
    | stays => exact .kept rfl rfl Iff.rfl
    | swaps hc =>
      have hkept : (s.slot through).KeptOrSwapped s.slots[through].lowered := .kept rfl rfl Iff.rfl
      exact hkept.trans (keptOrSwapped_swapped fun hclean => absurd (hc.symm.trans hclean) nofun)
  case fenced => exact keptOrSwapped_enterFenced ..
  case edited hE _ => exact hE.elim
  case committed hdirty _ _ _ =>
    exact keptOrSwapped_modifySlot (.kept rfl rfl ⟨nofun, fun h => absurd (hdirty.symm.trans h) nofun⟩)
  case swapped h => exact keptOrSwapped_modifySlot (keptOrSwapped_swapped h)
  case unsealed h => exact keptOrSwapped_modifySlot (.kept rfl rfl ⟨nofun, fun h' => absurd (h.symm.trans h') nofun⟩)
  case bound q k _ =>
    exact keptOrSwapped_modifySlot (k := k) (f := fun m => { m with binders := m.binders + 1 }) (.kept rfl rfl Iff.rfl)
  case rebound q b k _ _ =>
    have hlowered (u : State) : (u.slot n).KeptOrSwapped ((u.lowerBinders b.slot).slot n) :=
      keptOrSwapped_modifySlot (.kept rfl rfl Iff.rfl)
    have hraised (u : State) : (u.slot n).KeptOrSwapped ((u.raiseBinders k).slot n) :=
      keptOrSwapped_modifySlot (.kept rfl rfl Iff.rfl)
    exact ((hlowered _).trans (hraised _)).trans (keptOrSwapped_leaveWaiting ..)
  case unbound => exact keptOrSwapped_detach ..
  case waitingLeft => exact keptOrSwapped_leaveWaiting ..
  case portReset hreset => exact keptOrSwapped_portReset hreset
  case deviceReset hE _ => exact hE.elim
  case poweredUp hE _ => exact hE.elim

theorem keptOrSwapped_parts {C : Prop} (h : Parts False C s t) : (s.slot n).KeptOrSwapped (t.slot n) := by
  induction h with
  | refl => exact .refl _
  | tail _ hpart ih => exact ih.trans (keptOrSwapped_part hpart)

end KeptOrSwapped

/-! ## The edits keep the live images -/

section Edits
variable {s u : State} {n k : SlotId} {t : Taken}

theorem live_modifySlot {f : MapSlot → MapSlot} (h : (f (s.slot k)).live = (s.slot k).live) :
    ((s.modifySlot k f).slot n).live = (s.slot n).live := by
  by_cases e : k = n
  · subst e
    rwa [slot_modifySlot_self]
  · rw [slot_modifySlot_of_ne s f e]

theorem live_complete (h : (u.slot n).live = (s.slot n).live) (status : Status) (r : Option Result) :
    ((u.complete t status r).slot n).live = (s.slot n).live := h

theorem live_unlessBusy {carryOut : State} (h : (carryOut.slot n).live = (s.slot n).live) :
    ((s.unlessBusy t k carryOut).slot n).live = (s.slot n).live := by
  unfold State.unlessBusy
  split
  · rfl
  · exact h

theorem live_supervisorOnly {carryOut : State → State} (h : ((carryOut s).slot n).live = (s.slot n).live) :
    ((s.supervisorOnly t carryOut).slot n).live = (s.slot n).live := by
  unfold State.supervisorOnly
  split
  · exact h
  · rfl

theorem live_putEntry (slot page : Byte) (frame : Frame) (rights : BitVec 2) :
    ((s.putEntry t slot page frame rights).slot n).live = (s.slot n).live := by
  unfold State.putEntry
  split
  · exact live_unlessBusy (live_complete (live_modifySlot (by rfl)) ..)
  · rfl

theorem live_discard (slot : Byte) : ((s.discard t slot).slot n).live = (s.slot n).live := by
  unfold State.discard
  split
  · refine live_unlessBusy ?_
    split
    · rfl
    · exact live_complete (live_modifySlot (by rfl)) ..
  · rfl

theorem live_clear (slot : Byte) : ((s.clear t slot).slot n).live = (s.slot n).live := by
  unfold State.clear
  split
  · exact live_unlessBusy (live_complete (live_modifySlot (by rfl)) ..)
  · rfl

theorem live_take {p : PortId} {body : Taken → Command → State → Option State}
    (h : ∀ x c u v, body x c u = some v → (v.slot n).live = (u.slot n).live) :
    ((s.take p body).slot n).live = (s.slot n).live := by
  unfold State.take
  split
  · rfl
  · next r rest _ =>
    cases hbody : body { port := p, tag := r.tag, code := r.code } r.command
      (s.modifyPort p fun q => { q with commands := rest }) with
    | none => rfl
    | some v =>
      have hv := h _ _ _ v hbody
      exact hv

theorem live_endRunning (status : Status) (done : Nat) : ((s.endRunning status done).slot n).live = (s.slot n).live := by
  unfold State.endRunning
  split
  · rfl
  · exact congrArg (·.live) (slot_of_slots (State.completeJob_slots ..) n)

theorem live_pageDone (j : Job) (rest : List Job) (done : Nat) :
    ((s.pageDone j rest done).slot n).live = (s.slot n).live := by
  unfold State.pageDone
  split
  · exact live_endRunning ..
  · rfl

theorem live_descriptorWrite (page : Page) (d : Descriptor) :
    ((s.descriptorWrite k page d).slot n).live = (s.slot n).live := by
  cases d with
  | set => exact live_modifySlot rfl
  | keep | malformed => rfl

theorem live_answerLoad (outcome : MemOutcome) (data : List Byte) :
    ((s.answerLoad outcome data).slot n).live = (s.slot n).live := by
  unfold State.answerLoad
  split
  · rfl
  · split
    · exact live_endRunning ..
    · split
      · exact live_endRunning ..
      · split
        · exact live_endRunning ..
        · exact (live_pageDone ..).trans (live_descriptorWrite ..)
    all_goals rfl

theorem live_memoryAnswer {x : MemAnswer} {before after : List OutEntry} {e : OutEntry} (first : List PortId)
    (h : s.Answers x before e after) (he : e.requester = .loadEngine) :
    ((s.memoryAnswer x first).slot n).live = (s.slot n).live := by
  rw [memoryAnswer_of_answers h, he]
  exact live_answerLoad ..

end Edits

/-- R3, R11 to R14: a command that may edit keeps the live images. -/
theorem live_of_mayEdit {i : Instr} {s t : State} (n : SlotId) (h : exec i s = .next t) (hdevice : i ≠ .deviceReset)
    (hpower : i ≠ .powerUp) (hE : MayEdit i s) : (t.slot n).live = (s.slot n).live := by
  cases i
  case putEntry =>
    obtain rfl := Host.Outcome.next.inj h
    refine live_take fun x c u v hv => ?_
    split at hv
    all_goals cases hv
    exact live_supervisorOnly (live_putEntry ..)
  case discard =>
    obtain rfl := Host.Outcome.next.inj h
    refine live_take fun x c u v hv => ?_
    split at hv
    all_goals cases hv
    exact live_supervisorOnly (live_discard ..)
  case clear =>
    obtain rfl := Host.Outcome.next.inj h
    refine live_take fun x c u v hv => ?_
    split at hv
    all_goals cases hv
    exact live_supervisorOnly (live_clear ..)
  case deviceReset => exact absurd rfl hdevice
  case powerUp => exact absurd rfl hpower
  case memoryAnswerAccess =>
    obtain rfl := Host.Outcome.next.inj h
    obtain ⟨before, e, after, hx, he⟩ := hE
    exact live_memoryAnswer _ hx he
  case memoryAnswerDescriptor =>
    obtain rfl := Host.Outcome.next.inj h
    obtain ⟨before, e, after, hx, he⟩ := hE
    exact live_memoryAnswer _ hx he
  all_goals exact hE.elim

/-- Settles O58: a command that may edit keeps the live images, and any other is a chain of parts that keep both images or swap
them. -/
theorem liveImageChangesBySwap : Obligations.LiveImageChangesBySwap := by
  intro i s t n h hdevice hpower hlive
  by_cases hE : MayEdit i s
  case pos => exact absurd (live_of_mayEdit n h hdevice hpower hE) hlive
  obtain ⟨hstaged, ⟨hsame, -⟩ | ⟨hswapped, hclean, hno⟩⟩ :=
    keptOrSwapped_parts (C := True) (n := n) (parts_exec h hE fun _ => trivial)
  · exact absurd hsame hlive
  · exact ⟨hswapped, hstaged, hclean, hno⟩

end Sys2Proof.Machine
end

section
/-! The command records of a port, from the post to the pop: every command but those that post, pop or reset moves each record on
and loses none, so that the outstanding counts are kept: O6. -/

namespace Sys2Proof.Machine

/-! ## The records of a port -/

/-- Whether a pending commit that is owed a completion was issued by port `p`. -/
def Condition.owesTo (c : Condition) (p : PortId) : Bool :=
  match c with
  | .sealed c => c.owed && c.issuer.port = p
  | .clean | .dirty => false

/-- Whether a load job that is owed a completion was issued by port `p`. -/
def Job.owesTo (j : Job) (p : PortId) : Bool := j.owed && j.issuer.port = p

/-- The load jobs that are owed a completion at port `p`. -/
def jobsOwed (jobs : List Job) (p : PortId) : Nat := jobs.countP (·.owesTo p)

/-- The pending commits that are owed a completion at port `p`. -/
def State.commitsOwed (s : State) (p : PortId) : Nat := (List.finRange 16).countP fun n => (s.slot n).condition.owesTo p

/-- The command records of port `p` that are posted, in progress or completed (R171). -/
def State.tally (s : State) (p : PortId) : Nat :=
  (s.port p).commands.length + (jobsOwed s.jobs p + s.commitsOwed p) + (s.port p).completions.length

theorem outstandingCounts_iff (s : State) :
    s.OutstandingCounts ↔ ∀ p : PortId, (s.port p).outstanding ≤ Config.commandLimit ∧ (s.port p).outstanding = s.tally p := by
  have hcommits (p : PortId) : s.commitsOwed p = (List.finRange 16).countP fun n => match (s.slot n).condition with
      | .sealed c => c.owed && c.issuer.port = p
      | .clean | .dirty => false := by
    refine List.countP_congr fun n _ => ?_
    cases (s.slot n).condition <;> rfl
  have htally (p : PortId) : s.tally p = (s.port p).commands.length + s.inProgress p + (s.port p).completions.length := by
    unfold State.tally State.inProgress
    rw [hcommits]
    rfl
  unfold State.OutstandingCounts
  simp only [htally]

/-- From `s` to `t` no port posts or pops, and port `p` has `d p` command records more. -/
structure State.Settles (d : PortId → ℤ) (s t : State) : Prop where
  outstanding : ∀ p : PortId, (t.port p).outstanding = (s.port p).outstanding
  tally : ∀ p : PortId, (t.tally p : ℤ) = s.tally p + d p

theorem outstandingCounts_of_settles {s t : State} (hs : s.OutstandingCounts) (h : s.Settles 0 t) : t.OutstandingCounts := by
  rw [outstandingCounts_iff] at hs ⊢
  intro p
  obtain ⟨hle, heq⟩ := hs p
  have htally := h.tally p
  rw [h.outstanding p]
  simp only [Pi.zero_apply] at htally
  exact ⟨hle, by omega⟩

section Settles
variable {d e : PortId → ℤ} {s t u : State}

theorem State.Settles.refl (s : State) : s.Settles 0 s := ⟨fun _ => rfl, fun _ => by simp⟩

theorem State.Settles.trans (h : s.Settles d t) (h' : t.Settles e u) : s.Settles (d + e) u :=
  ⟨fun p => (h'.outstanding p).trans (h.outstanding p), fun p => by
    rw [h'.tally p, h.tally p, Pi.add_apply, add_assoc]⟩

theorem State.Settles.congr (h : s.Settles d t) (hd : ∀ p, d p = e p) : s.Settles e t := funext hd ▸ h

theorem commitsOwed_of_owesTo (h : ∀ (n : SlotId) (p : PortId), (t.slot n).condition.owesTo p = (s.slot n).condition.owesTo p)
    (p : PortId) : t.commitsOwed p = s.commitsOwed p := by
  unfold State.commitsOwed
  simp only [h]

theorem commitsOwed_modifySlot (s : State) (n : SlotId) (f : MapSlot → MapSlot) (p : PortId) :
    ((s.modifySlot n f).commitsOwed p : ℤ) =
      s.commitsOwed p + (((f (s.slot n)).condition.owesTo p).toNat - ((s.slot n).condition.owesTo p).toNat) := by
  have hslot : (s.modifySlot n f).slot = Function.update s.slot n (f (s.slot n)) := by
    funext m
    by_cases e : n = m
    · subst e
      rw [slot_modifySlot_self, Function.update_self]
    · rw [slot_modifySlot_of_ne s f e, Function.update_of_ne (Ne.symm e)]
  have hcount : (s.modifySlot n f).commitsOwed p + ((s.slot n).condition.owesTo p).toNat =
      s.commitsOwed p + ((f (s.slot n)).condition.owesTo p).toNat := by
    unfold State.commitsOwed
    rw [hslot]
    exact countP_finRange_update s.slot n (f (s.slot n)) fun m => m.condition.owesTo p
  omega

variable (h : s.Settles d t)
include h

/-- What the records do not depend on changes. -/
theorem State.Settles.frames (hp : u.ports = t.ports) (hs : u.slots = t.slots)
    (hj : ∀ p, jobsOwed u.jobs p = jobsOwed t.jobs p) : s.Settles d u := by
  have hport (p : PortId) : u.port p = t.port p := by unfold State.port; rw [hp]
  refine ⟨fun p => by rw [hport]; exact h.outstanding p, fun p => ?_⟩
  rw [← h.tally p, State.tally, State.tally, hport, hj,
    commitsOwed_of_owesTo (s := t) (t := u) fun n p => by rw [slot_of_slots hs]]

theorem State.Settles.modifyPort {p : PortId} {f : PortRec → PortRec}
    (hout : (f t.ports[p]).outstanding = t.ports[p].outstanding) (hcmd : (f t.ports[p]).commands = t.ports[p].commands)
    (hcpl : (f t.ports[p]).completions = t.ports[p].completions) : s.Settles d (t.modifyPort p f) := by
  have hport (q : PortId) : ((t.modifyPort p f).port q).outstanding = (t.port q).outstanding ∧
      ((t.modifyPort p f).port q).commands = (t.port q).commands ∧
      ((t.modifyPort p f).port q).completions = (t.port q).completions := by
    rw [State.port_eq, State.ports_modifyPort]
    split
    · next e => subst e; exact ⟨hout, hcmd, hcpl⟩
    · exact ⟨rfl, rfl, rfl⟩
  refine ⟨fun q => (hport q).1.trans (h.outstanding q), fun q => ?_⟩
  rw [← h.tally q, State.tally, State.tally, (hport q).2.1, (hport q).2.2]
  rfl

theorem State.Settles.modifySlot (n : SlotId) (f : MapSlot → MapSlot) :
    s.Settles (fun p => d p + (((f (t.slot n)).condition.owesTo p).toNat - ((t.slot n).condition.owesTo p).toNat))
      (t.modifySlot n f) := by
  refine ⟨h.outstanding, fun p => ?_⟩
  have htally := h.tally p
  have hcommits := commitsOwed_modifySlot t n f p
  unfold State.tally at htally ⊢
  rw [State.modifySlot_jobs]
  change (((t.port p).commands.length + (jobsOwed t.jobs p + (t.modifySlot n f).commitsOwed p) +
    (t.port p).completions.length : Nat) : ℤ) = _
  omega

theorem State.Settles.modifySlot_of_condition (n : SlotId) {f : MapSlot → MapSlot}
    (hf : ∀ p, (f (t.slot n)).condition.owesTo p = (t.slot n).condition.owesTo p) : s.Settles d (t.modifySlot n f) :=
  (h.modifySlot n f).congr fun p => by rw [hf]; omega

/-- The load queue changes. -/
theorem State.Settles.jobs (jobs : List Job) :
    s.Settles (fun p => d p + (jobsOwed jobs p - jobsOwed t.jobs p)) { t with jobs := jobs } := by
  refine ⟨h.outstanding, fun p => ?_⟩
  have htally := h.tally p
  unfold State.tally at htally ⊢
  change (((t.port p).commands.length + (jobsOwed jobs p + t.commitsOwed p) + (t.port p).completions.length : Nat) : ℤ) = _
  omega

/-- A completion joins. -/
theorem State.Settles.complete (x : Taken) (status : Status) (r : Option Result) :
    s.Settles (fun p => d p + if x.port = p then 1 else 0) (t.complete x status r) := by
  have hport (q : PortId) : ((t.complete x status r).port q).outstanding = (t.port q).outstanding ∧
      ((t.complete x status r).port q).commands = (t.port q).commands ∧
      ((t.complete x status r).port q).completions.length = (t.port q).completions.length + if x.port = q then 1 else 0 := by
    unfold State.complete State.join
    rw [State.port_eq, State.ports_modifyPort]
    split
    · next e => subst e; exact ⟨rfl, rfl, by simp⟩
    · exact ⟨rfl, rfl, rfl⟩
  refine ⟨fun q => (hport q).1.trans (h.outstanding q), fun q => ?_⟩
  have htally := h.tally q
  unfold State.tally at htally ⊢
  rw [(hport q).2.1, (hport q).2.2]
  change (((t.port q).commands.length + (jobsOwed t.jobs q + t.commitsOwed q) +
    ((t.port q).completions.length + if x.port = q then 1 else 0) : Nat) : ℤ) = _
  split <;> omega

theorem State.Settles.completeCommit (c : PendingCommit) (status : Status) (r : Option Result) :
    s.Settles (fun p => d p + ((Condition.sealed c).owesTo p).toNat) (t.completeCommit c status r) := by
  unfold State.completeCommit
  split
  case isTrue howed =>
    refine (h.complete ..).congr fun p => ?_
    by_cases hp : c.issuer.port = p <;> simp [Condition.owesTo, howed, hp]
  case isFalse howed => exact h.congr fun p => by simp [Condition.owesTo, howed]

theorem State.Settles.completeJob (j : Job) (status : Status) (done : Nat) :
    s.Settles (fun p => d p + (j.owesTo p).toNat) (t.completeJob j status done) := by
  unfold State.completeJob
  split
  case isTrue howed =>
    refine (h.complete ..).congr fun p => ?_
    by_cases hp : j.issuer.port = p <;> simp [Job.owesTo, howed, hp]
  case isFalse howed => exact h.congr fun p => by simp [Job.owesTo, howed]

/-! ## Operations that move no record -/

theorem State.Settles.raise (p : PortId) (f : Flag) : s.Settles d (t.modifyPort p (·.raise f)) := h.modifyPort rfl rfl rfl

theorem State.Settles.raiseSupervisor (f : Flag) : s.Settles d (t.raiseSupervisor f) := by
  unfold State.raiseSupervisor
  split
  · exact h.raise ..
  · exact h

theorem State.Settles.joinFault (p : PortId) (body : FaultBody) : s.Settles d (t.joinFault p body) := by
  unfold State.joinFault
  refine State.Settles.raiseSupervisor ?_ .fault
  exact h.frames rfl rfl fun _ => rfl

theorem State.Settles.recordViolation (p : PortId) (held : Bool) (cause : Option LeaseKind) :
    s.Settles d (t.recordViolation p held cause) := by
  cases cause with
  | none => exact h
  | some kind => exact h.joinFault ..

theorem State.Settles.moveRights (x : Holdings) : s.Settles d (t.moveRights x) := by
  have hport (q : PortId) : ((t.moveRights x).port q).outstanding = (t.port q).outstanding ∧
      ((t.moveRights x).port q).commands = (t.port q).commands ∧
      ((t.moveRights x).port q).completions = (t.port q).completions := by
    rw [State.port_eq, State.ports_moveRights]
    split <;> exact ⟨rfl, rfl, rfl⟩
  refine ⟨fun q => (hport q).1.trans (h.outstanding q), fun q => ?_⟩
  rw [← h.tally q, State.tally, State.tally, (hport q).2.1, (hport q).2.2]
  rfl

theorem State.Settles.endRoles (p : PortId) : s.Settles d (t.endRoles p) := by
  unfold State.endRoles State.succession
  split
  · split
    · exact h.moveRights _
    · split <;> exact h.moveRights _
  · exact h.moveRights _

/-- R15, R89: the completion of a swapped commit is owed no longer as it joins. -/
theorem State.Settles.swapMark {n : SlotId} {c : PendingCommit} (hc : (t.slot n).condition = .sealed c) :
    s.Settles d (t.swapMark n c) := by
  refine ((h.modifySlot n (·.swapped)).completeCommit c .ok (some (.commit true))).congr fun p => ?_
  rw [hc]
  simp [MapSlot.swapped, Condition.owesTo]

theorem State.Settles.leaveWaiting (p : PortId) (n : SlotId) : s.Settles d (t.leaveWaiting p n) := by
  unfold State.leaveWaiting
  split
  case h_2 | h_3 => exact h
  case h_1 c hc =>
    split
    · exact h
    split
    case isFalse => exact h
    split
    · exact h.swapMark hc
    · exact h.modifySlot_of_condition n fun q => by rw [hc]; rfl

theorem State.Settles.detach (p : PortId) (st : PortState) : s.Settles d (t.detach p st) := by
  have hstate : s.Settles d (t.modifyPort p ({ · with state := st })) := h.modifyPort rfl rfl rfl
  unfold State.detach
  split
  · next n _ =>
    exact State.Settles.leaveWaiting (hstate.modifySlot_of_condition n fun _ => rfl) p n
  · exact hstate

theorem State.Settles.retireAccess (p : PortId) : s.Settles d (t.retireAccess p) := h.frames rfl rfl fun _ => rfl

theorem State.Settles.enterFenced (p : PortId) (cause : Option LeaseKind) : s.Settles d (t.enterFenced p cause) := by
  have hanswered : s.Settles d (t.modifyPort p (·.answerFenced)) := h.modifyPort rfl rfl rfl
  exact ((((hanswered.retireAccess p).detach ..).endRoles ..).recordViolation ..).raise ..

theorem State.Settles.endStall (p : PortId) (f : AccessSlot → AccessSlot) : s.Settles d (t.endStall p f) := by
  unfold State.endStall
  split
  · exact (h.retireAccess p).modifyPort rfl rfl rfl
  all_goals exact h

theorem State.Settles.resetState (p : PortId) : s.Settles d (t.resetState p) := by
  unfold State.resetState
  split
  · exact (h.retireAccess p).detach ..
  · exact (h.retireAccess p).detach ..
  all_goals exact h

/-! ## Translation -/

theorem State.Settles.translateBound (p : PortId) (k : AccId) (a : Access) (b : Binding) :
    s.Settles d (t.translateBound p k a b) := by
  unfold State.translateBound
  split
  case isTrue => exact h
  split
  case isFalse => exact h.modifyPort rfl rfl rfl
  split
  · exact State.Settles.leaveWaiting ((h.joinFault ..).modifyPort rfl rfl rfl) ..
  · have hslot : s.Settles d
        (t.modifyPort p fun r => { r with slots := r.slots.set k (some { access := a, state := .issued b.slot false }) }) :=
      h.modifyPort rfl rfl rfl
    have hraised := hslot.modifySlot_of_condition b.slot (f := fun m => { m with inFlight := m.inFlight + 1 }) fun _ => rfl
    exact hraised.frames rfl rfl fun _ => rfl

theorem State.Settles.translateHead (p : PortId) : s.Settles d (t.translateHead p) := by
  unfold State.translateHead
  split
  case h_1 => exact h
  case h_2 =>
    split
    case h_1 | h_2 => exact h.modifyPort rfl rfl rfl
    case h_3 => exact h
    case h_4 => exact h.translateBound ..

theorem State.Settles.release (n : SlotId) (first : List PortId) : s.Settles d (t.release n first) := by
  unfold State.release
  generalize (portOrder first).filter (· ∈ t.attachedTo n) = ports
  induction ports generalizing t with
  | nil => exact h
  | cons p rest ih => exact ih (h.translateHead p)

theorem State.Settles.translateReleased (p : PortId) (c : Condition) : s.Settles d (t.translateReleased p c) := by
  unfold State.translateReleased
  split
  · exact h.translateHead p
  · exact h

theorem State.Settles.swapDrain {n : SlotId} {c : PendingCommit} (hc : (t.slot n).condition = .sealed c)
    (first : List PortId) : s.Settles d (t.swapDrain n c first) := by
  refine (((h.modifySlot n (·.swapped)).release n first).completeCommit c .ok (some (.commit true))).congr fun p => ?_
  rw [hc]
  simp [MapSlot.swapped, Condition.owesTo]

theorem State.Settles.testBoundary (n : SlotId) (first : List PortId) : s.Settles d (t.testBoundary n first) := by
  unfold State.testBoundary
  split
  case h_2 | h_3 => exact h
  case h_1 c hc =>
    split
    case isFalse => exact h
    split
    · exact h.swapDrain hc first
    · exact h.swapMark hc

/-! ## Ticks and renewals -/

theorem State.Settles.countTick (p : PortId) (b : Binding) : s.Settles d (t.modifyPort p (·.countTick b)) := by
  refine h.modifyPort ?_ ?_ ?_
  all_goals
    rw [countTick_eq]
    split <;> rfl

theorem State.Settles.tickLease (p : PortId) : s.Settles d (t.tickLease p) := by
  unfold State.tickLease
  split
  case h_1 b _ =>
    split
    case isFalse => exact h
    split
    · exact (h.countTick p b).enterFenced ..
    · exact h.countTick p b
  all_goals exact h

theorem State.Settles.tickTimer (p : PortId) : s.Settles d (t.tickTimer p) := by
  unfold State.tickTimer
  split
  case h_1 =>
    split
    case h_2 => exact h
    split
    · exact ((h.endStall ..).raiseSupervisor ..).translateHead p
    · exact h.modifyPort rfl rfl rfl
  all_goals exact h

theorem State.Settles.tickPart (part : TickPart) : s.Settles d (t.tickPart part) := by
  cases part with
  | stamp => exact h.frames rfl rfl fun _ => rfl
  | lease p => exact h.tickLease p
  | timer p => exact h.tickTimer p

theorem State.Settles.tick (order : List TickPart) : s.Settles d (order.foldl State.tickPart t) := by
  induction order generalizing t with
  | nil => exact h
  | cons part rest ih => exact ih (h.tickPart part)

theorem State.Settles.takeRenewal (p : PortId) (number : BitVec 8) : s.Settles d (t.takeRenewal p number) := by
  unfold State.takeRenewal
  split
  case h_1 =>
    split
    case h_1 | h_2 =>
      split
      · exact h.modifyPort rfl rfl rfl
      · exact h.enterFenced ..
    case h_3 => exact h.enterFenced ..
    case h_4 => exact h.modifyPort rfl rfl rfl
  all_goals exact h.modifyPort rfl rfl rfl

end Settles

/-! ## The load queue -/

theorem jobsOwed_cons (j : Job) (rest : List Job) (p : PortId) :
    jobsOwed (j :: rest) p = jobsOwed rest p + (j.owesTo p).toNat := by
  unfold jobsOwed
  rw [List.countP_cons]
  cases j.owesTo p <;> rfl

theorem jobsOwed_append (jobs : List Job) (j : Job) (p : PortId) :
    jobsOwed (jobs ++ [j]) p = jobsOwed jobs p + (j.owesTo p).toNat := by
  unfold jobsOwed
  rw [List.countP_append, List.countP_singleton]
  cases j.owesTo p <;> rfl

theorem jobsOwed_startHead (jobs : List Job) (p : PortId) : jobsOwed (startHead jobs) p = jobsOwed jobs p := by
  cases jobs with
  | nil => rfl
  | cons j rest =>
    rw [startHead]
    split
    · rw [jobsOwed_cons, jobsOwed_cons]
      rfl
    · rfl

/-- R72: each owed job of the queue stays or ends. -/
theorem jobsOwed_abortSweep (n : SlotId) (jobs : List Job) (p : PortId) :
    jobsOwed (abortSweep n jobs).stay p + jobsOwed ((abortSweep n jobs).ended.map (·.1)) p = jobsOwed jobs p := by
  induction jobs with
  | nil => rfl
  | cons j rest ih =>
    have hkept {k : Job} {w : AbortSweep} (hsweep : abortSweep n (j :: rest) = w) (hk : k.owesTo p = j.owesTo p)
        (hstay : w.stay = k :: (abortSweep n rest).stay) (hended : w.ended = (abortSweep n rest).ended) :
        jobsOwed (abortSweep n (j :: rest)).stay p + jobsOwed ((abortSweep n (j :: rest)).ended.map (·.1)) p =
          jobsOwed (j :: rest) p := by
      rw [hsweep, hstay, hended, jobsOwed_cons, jobsOwed_cons, hk]
      omega
    by_cases hs : j.slot = n
    · cases hstep : j.abortStep with
      | ends done =>
        rw [abortSweep_cons_of_ends hs hstep]
        show jobsOwed (abortSweep n rest).stay p + jobsOwed (j :: (abortSweep n rest).ended.map (·.1)) p = _
        rw [jobsOwed_cons, jobsOwed_cons]
        omega
      | passes => exact hkept (abortSweep_cons_of_passes hs hstep) rfl rfl rfl
      | marks k =>
        refine hkept (abortSweep_cons_of_marks hs hstep) ?_ rfl rfl
        unfold Job.abortStep at hstep
        split at hstep
        all_goals cases hstep
        rfl
    · exact hkept (abortSweep_cons_of_other hs) rfl rfl rfl

/-- A slot that is not SEALED owes nothing. -/
theorem owesTo_of_not_sealed {c : Condition} (hc : c.isSealed = false) (p : PortId) : c.owesTo p = false := by
  cases c with
  | clean | dirty => rfl
  | sealed => cases hc

theorem placeAnswer_control (r : PortRec) (k : AccId) (outcome : MemOutcome) (data : List Byte) :
    (r.placeAnswer k outcome data).outstanding = r.outstanding ∧ (r.placeAnswer k outcome data).commands = r.commands ∧
      (r.placeAnswer k outcome data).completions = r.completions := by
  unfold PortRec.placeAnswer
  split
  · exact ⟨rfl, rfl, rfl⟩
  · exact ⟨acceptHeld_outstanding _, acceptHeld_commands _, acceptHeld_completions _⟩
  · exact ⟨rfl, rfl, rfl⟩

section Memory
variable {d : PortId → ℤ} {s t : State} (h : s.Settles d t)
include h

theorem State.Settles.completeAborted (jobs : List (Job × Nat)) :
    s.Settles (fun p => d p + jobsOwed (jobs.map (·.1)) p) (t.completeAborted jobs) := by
  induction jobs generalizing t d with
  | nil => exact h.congr fun p => by simp [jobsOwed]
  | cons x rest ih =>
    refine (ih (h.completeJob x.1 .aborted x.2)).congr fun p => ?_
    rw [List.map_cons, jobsOwed_cons]
    omega

theorem State.Settles.endRunning (status : Status) (done : Nat) : s.Settles d (t.endRunning status done) := by
  unfold State.endRunning
  split
  case h_1 => exact h
  case h_2 j rest hjobs =>
    refine ((h.jobs (startHead rest)).completeJob j status done).congr fun p => ?_
    rw [hjobs, jobsOwed_startHead, jobsOwed_cons]
    omega

theorem State.Settles.pageDone {j : Job} {rest : List Job} (hjobs : t.jobs = j :: rest) (done : Nat) :
    s.Settles d (t.pageDone j rest done) := by
  unfold State.pageDone
  split
  · exact h.endRunning ..
  · refine h.frames rfl rfl fun p => ?_
    rw [hjobs, jobsOwed_cons, jobsOwed_cons]
    rfl

theorem State.Settles.edit {n : SlotId} {f : MapSlot → MapSlot} (hbefore : (t.slot n).condition.isSealed = false)
    (hafter : (f (t.slot n)).condition.isSealed = false) : s.Settles d (t.modifySlot n f) :=
  h.modifySlot_of_condition n fun p => by rw [owesTo_of_not_sealed hbefore, owesTo_of_not_sealed hafter]

/-- R14, R81: a descriptor write goes to a slot that is not SEALED. -/
theorem State.Settles.answerLoad (hsealed : t.SealedNotLoadHeld) (outcome : MemOutcome) (data : List Byte) :
    s.Settles d (t.answerLoad outcome data) := by
  unfold State.answerLoad
  split
  case h_1 => exact h
  case h_2 j rest hjobs =>
    have hslot : (t.slot j.slot).condition.isSealed = false := by
      refine Bool.eq_false_iff.2 fun hseal => Bool.eq_false_iff.1 (hsealed j.slot hseal) ?_
      simp [State.loadHeld, hjobs]
    split
    case h_3 | h_4 => exact h
    case h_1 => exact h.endRunning ..
    case h_2 done _ =>
      split
      case h_1 => exact h.endRunning ..
      case h_2 =>
        generalize descriptorOf (wordOfBytes data) = w
        split
        case h_1 => exact h.endRunning ..
        case h_2 =>
          cases w with
          | keep | malformed => exact h.pageDone hjobs _
          | set frame rights =>
            have hwrite : s.Settles d (t.descriptorWrite j.slot (j.page done) (.set frame rights)) :=
              h.edit (f := fun m =>
                { m with staged := m.staged.set (j.page done) { frame := frame, rights := rights }, condition := .dirty }) hslot rfl
            exact hwrite.pageDone hjobs _

theorem State.Settles.memoryAnswer (hsealed : t.SealedNotLoadHeld) (x : MemAnswer) (first : List PortId) :
    s.Settles d (t.memoryAnswer x first) := by
  unfold State.memoryAnswer
  split
  case isFalse => exact h
  split
  case h_2 => exact h
  case h_1 e _ =>
    have hmem : s.Settles d { t with mem := t.mem.removeEntry x.number } := h.frames rfl rfl fun _ => rfl
    unfold State.answerEntry
    split
    · next p k through _ =>
      obtain ⟨hout, hcmd, hcpl⟩ := placeAnswer_control t.ports[p] k x.outcome x.data
      have hplaced := hmem.modifyPort (p := p) (f := (·.placeAnswer k x.outcome x.data)) hout hcmd hcpl
      exact (hplaced.modifySlot_of_condition through (f := MapSlot.lowered) fun _ => rfl).testBoundary ..
    · exact hmem.answerLoad hsealed ..

theorem State.Settles.grantPort (q : Fin 7) (p : PortId) (number : TxnId) : s.Settles d (t.grantPort q p number) :=
  h.frames (grantPort_ports ..) (grantPort_slots ..) fun _ => by rw [grantPort_jobs]

theorem State.Settles.grantLoad (q : Fin 7) (number : TxnId) : s.Settles d (t.grantLoad q number) := by
  refine h.frames (grantLoad_ports ..) (grantLoad_slots ..) fun p => ?_
  obtain hsame | ⟨j, rest, done, hjobs, -, hgrant⟩ := grantLoad_cases t q number
  · rw [hsame]
  · rw [hgrant, hjobs, jobsOwed_cons]
    exact jobsOwed_cons ..

end Memory

/-! ## Commands taken -/

/-- What a taken command owes its port: one completion, at once or later. -/
abbrev State.OwesOne (t : Taken) (s u : State) : Prop := s.Settles (fun p => if t.port = p then 1 else 0) u

section Commands
variable {s u : State} {t : Taken}

/-- What keeps every record completes the command at once. -/
theorem completes (h : s.Settles 0 u) (status : Status) (r : Option Result) : s.OwesOne t (u.complete t status r) :=
  (h.complete ..).congr fun _ => zero_add _

theorem refuses (status : Status) (r : Option Result) : s.OwesOne t (s.complete t status r) := completes (.refl s) ..

theorem take_settles (p : PortId) {body : Taken → Command → State → Option State}
    (h : ∀ t c u v, body t c u = some v → u.OwesOne t v) : s.Settles 0 (s.take p body) := by
  unfold State.take
  split
  case h_1 => exact .refl s
  case h_2 r rest hcommands =>
    cases hbody : body { port := p, tag := r.tag, code := r.code } r.command
        (s.modifyPort p fun q => { q with commands := rest }) with
    | none => exact .refl s
    | some v =>
      have htaken : s.Settles (fun q => if p = q then -1 else 0) (s.modifyPort p fun q => { q with commands := rest }) := by
        have hport (q : PortId) : ((s.modifyPort p fun q => { q with commands := rest }).port q) =
            if p = q then { s.port q with commands := rest } else s.port q := by
          rw [State.port_eq, State.ports_modifyPort]
          split
          · next e => subst e; rfl
          · rfl
        refine ⟨fun q => ?_, fun q => ?_⟩
        · rw [hport]
          split <;> rfl
        · unfold State.tally
          rw [hport]
          change (((if p = q then { s.port q with commands := rest } else s.port q).commands.length +
            (jobsOwed s.jobs q + s.commitsOwed q) +
            (if p = q then { s.port q with commands := rest } else s.port q).completions.length : Nat) : ℤ) = _
          split
          · next e =>
            subst e
            rw [hcommands, List.length_cons]
            dsimp only
            omega
          · omega
      refine (htaken.trans (h _ _ _ _ hbody)).congr fun q => ?_
      rw [Pi.add_apply, Pi.zero_apply]
      split <;> rfl

theorem supervisorOnly_answers {carryOut : State → State} (h : s.OwesOne t (carryOut s)) :
    s.OwesOne t (s.supervisorOnly t carryOut) := by
  unfold State.supervisorOnly
  split
  · exact h
  · exact refuses ..

theorem unlessBusy_answers {n : SlotId} {carryOut : State}
    (h : (s.slot n).condition.isSealed = false → s.OwesOne t carryOut) : s.OwesOne t (s.unlessBusy t n carryOut) := by
  unfold State.unlessBusy
  split
  case isTrue => exact refuses ..
  case isFalse hbusy => exact h (Bool.eq_false_iff.2 fun hs => hbusy (by rw [hs]; rfl))

theorem putEntry_answers (slot page : Byte) (frame : Frame) (rights : BitVec 2) :
    s.OwesOne t (s.putEntry t slot page frame rights) := by
  unfold State.putEntry
  split
  · exact unlessBusy_answers fun hslot => completes ((State.Settles.refl s).edit hslot (by rfl)) ..
  · exact refuses ..

theorem discard_answers (slot : Byte) : s.OwesOne t (s.discard t slot) := by
  unfold State.discard
  split
  · refine unlessBusy_answers fun hslot => ?_
    split
    · exact refuses ..
    · exact completes ((State.Settles.refl s).edit hslot (by rfl)) ..
  · exact refuses ..

theorem clear_answers (slot : Byte) : s.OwesOne t (s.clear t slot) := by
  unfold State.clear
  split
  · exact unlessBusy_answers fun hslot => completes ((State.Settles.refl s).edit hslot (by rfl)) ..
  · exact refuses ..

theorem checkPage_answers (slot page : Byte) : s.OwesOne t (s.checkPage t slot page) := by
  unfold State.checkPage
  split
  · split <;> exact refuses ..
  · exact refuses ..

/-- R63: the job of an accepted LOAD owes the completion. -/
theorem load_answers (slot first : Byte) (count : BitVec 9) (addr : BitVec 24) :
    s.OwesOne t (s.load t slot first count addr) := by
  unfold State.load
  split
  · exact refuses ..
  · split
    case isFalse => exact refuses ..
    split
    · exact refuses ..
    split
    · exact refuses ..
    · refine ((State.Settles.refl s).jobs _).congr fun p => ?_
      rw [jobsOwed_startHead, jobsOwed_append]
      by_cases hp : t.port = p <;> simp [acceptedJob, Job.owesTo, hp]

theorem abortLoad_answers (slot : Byte) : s.OwesOne t (s.abortLoad t slot) := by
  unfold State.abortLoad
  split
  · exact refuses ..
  · next n _ =>
    split
    · exact refuses ..
    · refine completes ((((State.Settles.refl s).jobs _).completeAborted _).congr fun p => ?_) ..
      have hsweep := jobsOwed_abortSweep n s.jobs p
      rw [jobsOwed_startHead]
      simp only [Pi.zero_apply]
      omega

/-- R80, R82: the pending commit of a sealed slot owes the completion. -/
theorem commit_answers (slot : Byte) (boundary : BitVec 2) (first : List PortId) :
    s.OwesOne t (s.commit t slot boundary first) := by
  unfold State.commit
  split
  · exact refuses ..
  split
  · exact refuses ..
  split
  · exact refuses ..
  · split <;> exact refuses ..
  · next n _ _ b _ _ hdirty =>
    split
    · exact refuses ..
    · refine ((((State.Settles.refl s).modifySlot n
        fun m => { m with condition := .sealed (newCommit t b) }).testBoundary n first)).congr fun p => ?_
      rw [hdirty]
      by_cases hp : t.port = p <;> simp [newCommit, Condition.owesTo, hp]

/-- R91: the completion of a cancelled commit is owed no longer as it joins. -/
theorem unseal_settles {n : SlotId} {c : PendingCommit} (hc : (s.slot n).condition = .sealed c) (first : List PortId) :
    s.Settles 0 (s.unseal n c first) := by
  have hdirty : s.Settles (fun p => -((Condition.sealed c).owesTo p).toNat)
      (s.modifySlot n fun m => { m with condition := .dirty }) := by
    refine ((State.Settles.refl s).modifySlot n _).congr fun p => ?_
    rw [hc]
    simp [Condition.owesTo]
  have hreleased : s.Settles (fun p => -((Condition.sealed c).owesTo p).toNat) (match c.boundary with
      | .drain => (s.modifySlot n fun m => { m with condition := .dirty }).release n first
      | .mark _ => s.modifySlot n fun m => { m with condition := .dirty }) := by
    split
    · exact hdirty.release n first
    · exact hdirty
  exact (hreleased.completeCommit c .cancelled none).congr fun p => neg_add_cancel _

theorem cancelCommit_answers (slot : Byte) (first : List PortId) : s.OwesOne t (s.cancelCommit t slot first) := by
  unfold State.cancelCommit
  split
  · exact refuses ..
  split
  · next hc => exact completes (unseal_settles hc first) ..
  all_goals exact refuses ..

theorem sync_answers : s.OwesOne t (s.sync t) := by
  unfold State.sync
  split
  · exact refuses ..
  split
  · exact completes ((State.Settles.refl s).leaveWaiting ..) ..
  · exact refuses ..

theorem bind_answers (port slot : Byte) : s.OwesOne t (s.bind t port slot) := by
  unfold State.bind
  split
  case h_2 => exact refuses ..
  case h_1 q n _ _ =>
    have hstate (st : PortState) : s.Settles 0 (s.modifyPort q ({ · with state := st })) :=
      (State.Settles.refl s).modifyPort rfl rfl rfl
    split
    case h_1 | h_2 => exact refuses ..
    case h_3 => exact completes ((hstate _).modifySlot_of_condition n fun _ => by rfl) ..
    case h_4 b _ =>
      split
      · exact refuses ..
      · have hlowered := (hstate (.attached { b with slot := n })).modifySlot_of_condition b.slot
          (f := fun m => { m with binders := m.binders - 1 }) fun _ => rfl
        have hraised := hlowered.modifySlot_of_condition n (f := fun m => { m with binders := m.binders + 1 }) fun _ => rfl
        exact completes ((hraised.leaveWaiting ..).translateReleased ..) ..

theorem unbind_answers (port : Byte) : s.OwesOne t (s.unbind t port) := by
  unfold State.unbind
  split
  · exact refuses ..
  split
  case h_4 => exact completes ((State.Settles.refl s).detach ..) ..
  all_goals exact refuses ..

theorem setLease_answers (port : Byte) (fraction : BitVec 2) (period : BitVec 16) :
    s.OwesOne t (s.setLease t port fraction period) := by
  unfold State.setLease
  split
  case h_2 => exact refuses ..
  split
  case isFalse => exact refuses ..
  split
  · exact refuses ..
  · exact completes ((State.Settles.refl s).modifyPort rfl rfl rfl) ..

theorem fence_answers (port : Byte) : s.OwesOne t (s.fence t port) := by
  unfold State.fence
  split
  · exact refuses ..
  split
  · exact refuses ..
  · exact completes ((State.Settles.refl s).enterFenced ..) ..

theorem unfence_answers (port : Byte) : s.OwesOne t (s.unfence t port) := by
  unfold State.unfence
  split
  · exact refuses ..
  · next q _ =>
    split
    · have hretired : s.Settles 0 (s.retireLease q) := (State.Settles.refl s).frames rfl rfl fun _ => rfl
      exact completes (hretired.modifyPort rfl rfl rfl) ..
    · exact refuses ..

theorem resolve_answers (seq : BitVec 16) (code : BitVec 2) (a : Action) {act : State → PortId → State}
    (h : ∀ q, s.Settles 0 (act s q)) : s.OwesOne t (s.resolve t seq code a act) := by
  unfold State.resolve
  split
  · exact refuses ..
  split
  · exact refuses ..
  · exact completes (h _) ..

theorem readFault_answers (k : Byte) : s.OwesOne t (s.readFault t k) := by
  unfold State.readFault
  split <;> exact refuses ..

theorem setStandby_answers (port : Byte) : s.OwesOne t (s.setStandby t port) := by
  unfold State.setStandby
  split
  · exact refuses ..
  split
  · exact refuses ..
  split
  · exact refuses ..
  split
  · exact refuses ..
  · exact completes ((State.Settles.refl s).moveRights _) ..

theorem handover_answers (port : Byte) : s.OwesOne t (s.handover t port) := by
  unfold State.handover
  split
  · exact refuses ..
  split
  · exact refuses ..
  split
  · exact refuses ..
  · exact completes ((State.Settles.refl s).moveRights _) ..

theorem accept_answers : s.OwesOne t (s.accept t) := by
  unfold State.accept
  split
  · exact completes ((State.Settles.refl s).moveRights _) ..
  · exact refuses ..

theorem claim_answers : s.OwesOne t (s.claim t) := by
  unfold State.claim
  split
  · split <;> exact refuses ..
  · split
    · exact completes ((State.Settles.refl s).moveRights _) ..
    · exact refuses ..

theorem configure_answers (memsize : BitVec 13) (limit : BitVec 16) : s.OwesOne t (s.configure t memsize limit) := by
  unfold State.configure
  split
  case isFalse => exact refuses ..
  split
  · exact refuses ..
  · refine completes ?_ ..
    exact (State.Settles.refl s).frames rfl rfl fun _ => rfl

end Commands

/-! ## Commands that post, pop or reset -/

section OwnCounts
variable {s t : State} {p : PortId}

theorem outstandingCounts_modifyPort {f : PortRec → PortRec} (hs : s.OutstandingCounts)
    (hf : s.ports[p].outstanding ≤ Config.commandLimit →
      s.ports[p].outstanding = s.ports[p].commands.length + s.inProgress p + s.ports[p].completions.length →
      (f s.ports[p]).outstanding ≤ Config.commandLimit ∧
        (f s.ports[p]).outstanding = (f s.ports[p]).commands.length + s.inProgress p + (f s.ports[p]).completions.length) :
    (s.modifyPort p f).OutstandingCounts := by
  intro q
  have hprogress : (s.modifyPort p f).inProgress q = s.inProgress q := rfl
  rw [hprogress, State.port_eq, State.ports_modifyPort]
  split
  · next e =>
    subst e
    obtain ⟨hle, heq⟩ := hs p
    exact hf hle heq
  · exact hs q

/-- R170: the post counts the record it adds. -/
theorem outstandingCounts_post (hs : s.OutstandingCounts) : (s.modifyPort p (·.post)).OutstandingCounts := by
  refine outstandingCounts_modifyPort hs fun hle heq => ?_
  unfold PortRec.post
  split
  case isTrue hroom =>
    rw [List.length_append, List.length_singleton]
    dsimp only
    omega
  case isFalse => exact ⟨hle, heq⟩

/-- R176: the pop takes the record it removes off the count. -/
theorem outstandingCounts_pop (hs : s.OutstandingCounts) : (s.modifyPort p (·.pop)).OutstandingCounts := by
  refine outstandingCounts_modifyPort hs fun hle heq => ?_
  unfold PortRec.pop
  split
  case h_1 => exact ⟨hle, heq⟩
  case h_2 rest hcompletions =>
    rw [hcompletions, List.length_cons] at heq
    dsimp only
    omega

theorem outstandingCounts_apertureWrite (hs : s.OutstandingCounts) (addr : Nat) (whole : Bool) (value : Word) :
    (s.apertureWrite p addr whole value).OutstandingCounts := by
  have hquiet {f : PortRec → PortRec} (hf : (f s.ports[p]).outstanding = s.ports[p].outstanding ∧
      (f s.ports[p]).commands = s.ports[p].commands ∧ (f s.ports[p]).completions = s.ports[p].completions) :
      (s.modifyPort p f).OutstandingCounts :=
    outstandingCounts_of_settles hs ((State.Settles.refl s).modifyPort hf.1 hf.2.1 hf.2.2)
  unfold State.apertureWrite
  split
  case isFalse => exact hs
  split
  case h_1 | h_2 | h_3 | h_4 | h_8 | h_9 | h_10 => exact hquiet ⟨rfl, rfl, rfl⟩
  case h_5 => exact outstandingCounts_post hs
  case h_6 => exact outstandingCounts_pop hs
  case h_7 => exact outstandingCounts_of_settles hs ((State.Settles.refl s).takeRenewal ..)
  case h_11 => exact hs

/-- R112: a port that is reset has no records, and is owed none. -/
theorem outstandingCounts_resetAccesses (hs : s.OutstandingCounts) : (s.resetAccesses p).OutstandingCounts := by
  rw [outstandingCounts_iff] at hs ⊢
  have hport (q : PortId) : (s.resetAccesses p).port q =
      if p = q then s.ports[p].emptyControl.emptyAccesses else s.port q := by
    have hcontrol : (s.modifyPort p (·.emptyControl)).ports[p.val] = s.ports[p.val].emptyControl :=
      State.ports_modifyPort_self ..
    unfold State.resetAccesses
    rw [State.port_eq, State.ports_modifyPort]
    split
    · exact congrArg PortRec.emptyAccesses hcontrol
    · next e => exact State.ports_modifyPort_ne s (·.emptyControl) e
  have hjobs (q : PortId) : jobsOwed (s.resetAccesses p).jobs q = if p = q then 0 else jobsOwed s.jobs q := by
    show jobsOwed (s.jobs.map (·.disown p)) q = _
    unfold jobsOwed
    rw [List.countP_map]
    split
    · next e =>
      subst e
      rw [List.countP_eq_zero]
      intro j _
      by_cases hj : j.issuer.port = p <;> simp [Job.disown, Job.owesTo, hj]
    · next e =>
      refine List.countP_congr fun j _ => ?_
      by_cases hj : j.issuer.port = p <;> simp [Job.disown, Job.owesTo, hj, e]
  have hcommits (q : PortId) : (s.resetAccesses p).commitsOwed q = if p = q then 0 else s.commitsOwed q := by
    have hslot (n : SlotId) : (s.resetAccesses p).slot n = { s.slot n with condition := (s.slot n).condition.disown p } := by
      simp [State.resetAccesses, State.disown]
    unfold State.commitsOwed
    simp only [hslot]
    split
    · next e =>
      subst e
      rw [List.countP_eq_zero]
      intro n _
      cases (s.slot n).condition with
      | clean | dirty => exact nofun
      | sealed c => by_cases hc : c.issuer.port = p <;> simp [Condition.disown, Condition.owesTo, hc]
    · next e =>
      refine List.countP_congr fun n _ => ?_
      cases (s.slot n).condition with
      | clean | dirty => rfl
      | sealed c => by_cases hc : c.issuer.port = p <;> simp [Condition.disown, Condition.owesTo, hc, e]
  intro q
  unfold State.tally
  rw [hport, hjobs, hcommits]
  split
  · exact ⟨Nat.zero_le _, rfl⟩
  · exact hs q

theorem outstandingCounts_portReset (hs : s.OutstandingCounts) (h : exec (.portReset p) s = .next t) :
    t.OutstandingCounts := by
  obtain rfl := Host.Outcome.next.inj ((exec_portReset s p).symm.trans h)
  have haccesses := State.Settles.refl (s.resetAccesses p)
  have hclear : (s.resetAccesses p).Settles 0
      ((((s.resetAccesses p).resetState p).endRoles p).modifyPort p (·.clearFlags)) :=
    ((haccesses.resetState p).endRoles p).modifyPort rfl rfl rfl
  exact outstandingCounts_of_settles (outstandingCounts_resetAccesses hs)
    (hclear.modifyPort (acceptHeld_outstanding _) (acceptHeld_commands _) (acceptHeld_completions _))

theorem outstandingCounts_deviceReset (s : State) : s.deviceReset.acceptAll.OutstandingCounts := by
  rw [outstandingCounts_iff]
  intro p
  have hport : s.deviceReset.acceptAll.port p = PortRec.acceptHeld { PortRec.reset with requests := s.ports[p].requests } := by
    simp [State.acceptAll, State.deviceReset]
  have hreset := (outstandingCounts_iff State.reset).1 resetIsSound.outstandingCounts p
  have hcommits : s.deviceReset.acceptAll.commitsOwed p = State.reset.commitsOwed p := rfl
  have hjobs : s.deviceReset.acceptAll.jobs = State.reset.jobs := rfl
  unfold State.tally at hreset ⊢
  rw [hport, hcommits, hjobs, acceptHeld_outstanding, acceptHeld_commands, acceptHeld_completions]
  rw [State.port_eq, reset_port] at hreset
  exact hreset

end OwnCounts

/-! ## Every command -/

theorem deliver_settles {s v : State} {p : PortId} (h : execDeliverResponse p s = .next v) : s.Settles 0 v := by
  unfold execDeliverResponse at h
  split at h
  case h_1 =>
    cases h
    exact .refl s
  case h_2 k rest _ =>
    split at h
    case h_2 =>
      cases h
      exact .refl s
    case h_1 a response through _ =>
      cases h
      have hsent : s.Settles 0 { s with delivered := s.delivered ++ [(p, response)] } :=
        (State.Settles.refl s).frames rfl rfl fun _ => rfl
      exact hsent.modifyPort (acceptHeld_outstanding _) (acceptHeld_commands _) (acceptHeld_completions _)

theorem grant_settles {s v : State} {able : Bool} (h : execGrant able s = .next v) : s.Settles 0 v := by
  unfold execGrant at h
  split at h
  case isFalse =>
    cases h
    exact .refl s
  split at h
  case h_2 =>
    cases h
    exact .refl s
  split at h
  all_goals cases h
  · exact (State.Settles.refl s).grantPort ..
  · exact (State.Settles.refl s).grantLoad ..

theorem leaseExpiry_settles {s v : State} {p : PortId} (h : execLeaseExpiry p s = .next v) : s.Settles 0 v := by
  unfold execLeaseExpiry at h
  split at h
  case h_1 =>
    split at h
    all_goals cases h
    · exact (State.Settles.refl s).tickLease p
    · exact .refl s
  all_goals
    cases h
    exact .refl s

theorem stallTimerExpiry_settles {s v : State} {p : PortId} (h : execStallTimerExpiry p s = .next v) : s.Settles 0 v := by
  unfold execStallTimerExpiry at h
  split at h
  case h_1 =>
    split at h
    all_goals cases h
    · exact (State.Settles.refl s).tickTimer p
    · exact .refl s
  all_goals
    cases h
    exact .refl s

/-- R170 to R176: each command moves the records it takes on to their completion; the post, the pop and the resets keep the
counts with the records. -/
theorem outstandingCounts_exec {i : Instr} {s t : State} (hs : s.OutstandingCounts) (hsealed : s.SealedNotLoadHeld)
    (h : exec i s = .next t) : t.OutstandingCounts := by
  have hrefl := State.Settles.refl s
  cases i
  case portReset => exact outstandingCounts_portReset hs h
  case deliverResponse => exact outstandingCounts_of_settles hs (deliver_settles h)
  case grant => exact outstandingCounts_of_settles hs (grant_settles h)
  case leaseExpiry => exact outstandingCounts_of_settles hs (leaseExpiry_settles h)
  case stallTimerExpiry => exact outstandingCounts_of_settles hs (stallTimerExpiry_settles h)
  all_goals
    obtain rfl := Host.Outcome.next.inj h
  case deviceReset => exact outstandingCounts_deviceReset s
  case powerUp => exact resetIsSound.outstandingCounts
  case post => exact outstandingCounts_post hs
  case pop => exact outstandingCounts_pop hs
  case apertureWrite => exact outstandingCounts_apertureWrite hs _ _ _
  all_goals refine outstandingCounts_of_settles hs ?_
  case accessRequest p x pick =>
    exact hrefl.modifyPort (f := fun r => PortRec.acceptHeld { r with requests := r.requests ++ [{ access := x, pick := pick }] })
      (acceptHeld_outstanding _) (acceptHeld_commands _) (acceptHeld_completions _)
  case translateHeadAccess => exact hrefl.translateHead _
  case memoryAnswerAccess => exact hrefl.memoryAnswer hsealed ..
  case memoryAnswerDescriptor => exact hrefl.memoryAnswer hsealed ..
  case tick => exact hrefl.tick _
  case renewal => exact hrefl.takeRenewal ..
  case flagWordWrite p value => exact hrefl.modifyPort (p := p) (f := (·.writeFlags value)) rfl rfl rfl
  case enableWordWrite p value => exact hrefl.modifyPort (p := p) (f := (·.writeEnables value)) rfl rfl rfl
  case apertureStatusWrite p value => exact hrefl.modifyPort (p := p) (f := (·.writeStatus value)) rfl rfl rfl
  all_goals refine take_settles _ fun t c u v hbody => ?_
  case unknownCommand =>
    split at hbody
    all_goals cases hbody
    exact refuses ..
  case sync =>
    split at hbody
    all_goals cases hbody
    exact sync_answers
  case checkPage =>
    split at hbody
    all_goals cases hbody
    exact checkPage_answers ..
  case claim =>
    split at hbody
    all_goals cases hbody
    exact claim_answers
  case accept =>
    split at hbody
    all_goals cases hbody
    exact accept_answers
  case resolveRetry =>
    split at hbody
    case h_2 => cases hbody
    split at hbody
    all_goals cases hbody
    exact supervisorOnly_answers (resolve_answers _ _ _ fun q => ((State.Settles.refl u).endStall q _).translateHead q)
  case resolveSkip =>
    split at hbody
    case h_2 => cases hbody
    split at hbody
    all_goals cases hbody
    exact supervisorOnly_answers (resolve_answers _ _ _ fun q => ((State.Settles.refl u).endStall q _).translateHead q)
  case resolveFence =>
    split at hbody
    case h_2 => cases hbody
    split at hbody
    all_goals cases hbody
    exact supervisorOnly_answers (resolve_answers _ _ _ fun q => (State.Settles.refl u).enterFenced q none)
  case putEntry =>
    split at hbody
    all_goals cases hbody
    exact supervisorOnly_answers (putEntry_answers ..)
  case discard =>
    split at hbody
    all_goals cases hbody
    exact supervisorOnly_answers (discard_answers _)
  case clear =>
    split at hbody
    all_goals cases hbody
    exact supervisorOnly_answers (clear_answers _)
  case load =>
    split at hbody
    all_goals cases hbody
    exact supervisorOnly_answers (load_answers ..)
  case abortLoad =>
    split at hbody
    all_goals cases hbody
    exact supervisorOnly_answers (abortLoad_answers _)
  case commit =>
    split at hbody
    all_goals cases hbody
    exact supervisorOnly_answers (commit_answers ..)
  case cancelCommit =>
    split at hbody
    all_goals cases hbody
    exact supervisorOnly_answers (cancelCommit_answers ..)
  case bind =>
    split at hbody
    all_goals cases hbody
    exact supervisorOnly_answers (bind_answers ..)
  case unbind =>
    split at hbody
    all_goals cases hbody
    exact supervisorOnly_answers (unbind_answers _)
  case setLease =>
    split at hbody
    all_goals cases hbody
    exact supervisorOnly_answers (setLease_answers ..)
  case fence =>
    split at hbody
    all_goals cases hbody
    exact supervisorOnly_answers (fence_answers _)
  case unfence =>
    split at hbody
    all_goals cases hbody
    exact supervisorOnly_answers (unfence_answers _)
  case readFault =>
    split at hbody
    all_goals cases hbody
    exact supervisorOnly_answers (readFault_answers _)
  case setStandby =>
    split at hbody
    all_goals cases hbody
    exact supervisorOnly_answers (setStandby_answers _)
  case handover =>
    split at hbody
    all_goals cases hbody
    exact supervisorOnly_answers (handover_answers _)
  case configure =>
    split at hbody
    all_goals cases hbody
    exact supervisorOnly_answers (configure_answers ..)

/-- Settles O6: the command at the front of the queue keeps the counts, whatever comes behind it. -/
theorem outstandingCountsKept : Obligations.OutstandingCountsKept := by
  intro s t hs hsealed h
  unfold step at h
  split at h
  · cases h
    exact hs
  · next rest _ =>
    have hrest : s.Settles 0 { s with pending := rest } := (State.Settles.refl s).frames rfl rfl fun _ => rfl
    exact outstandingCounts_exec (outstandingCounts_of_settles hs hrest) hsealed h

end Sys2Proof.Machine
end

section
/-! The step, and the access stream of a port: O1, O14, O15, O16, O17, O18, O19. -/

namespace Sys2Proof.Machine

/-! ## The step -/

/-- Settles O1: the two cases of the queue. -/
theorem stepRunsFrontCommand : Obligations.StepRunsFrontCommand := by
  refine ⟨fun s c rest => rfl, fun s h => ?_⟩
  unfold step
  rw [h]

/-! ## Port records written out -/

theorem modifyPort_eq {s : State} {p : PortId} {f : PortRec → PortRec} {r : PortRec} (h : f s.ports[p] = r) :
    s.modifyPort p f = { s with ports := s.ports.set p r } := by
  rw [← h]
  rfl

/-! ## Requests -/

theorem acceptFrom_nil (r : PortRec) (h : r.requests = []) : r.acceptFrom [] = r := by
  unfold PortRec.acceptFrom
  rw [← h]

theorem acceptHeld_of_no_requests {r : PortRec} (h : r.requests = []) : r.acceptHeld = r :=
  (congrArg r.acceptFrom h).trans (acceptFrom_nil r h)

/-- R22: an empty request channel and a free slot. -/
theorem acceptHeld_of_free {r : PortRec} {a : Access} {pick k : AccId} (hrequests : r.requests = [])
    (hk : r.slots[pick] = none ∧ k = pick ∨
      r.slots[pick] ≠ none ∧ r.slots[k] = none ∧ ∀ j < k, r.slots[j] ≠ none) :
    PortRec.acceptHeld { r with requests := r.requests ++ [{ access := a, pick := pick }] } =
      { r with
        slots := r.slots.set k (some { access := a, state := .untranslated })
        arrival := r.arrival ++ [k] } := by
  have hfree := freeSlot_eq_some { r with requests := [{ access := a, pick := pick }] } pick k hk
  rw [hrequests, List.nil_append]
  show PortRec.acceptFrom { r with requests := [{ access := a, pick := pick }] } [{ access := a, pick := pick }] = _
  rw [PortRec.acceptFrom, hfree]
  dsimp only
  rw [PortRec.acceptFrom, ← hrequests]
  rfl

/-- Settles O14: a free slot takes the request, and a full port leaves it on the channel. -/
theorem requestAcceptedOrHeldOff : Obligations.RequestAcceptedOrHeldOff := by
  intro s p a pick k
  refine ⟨fun hrequests hk => ?_, fun hfull => ?_⟩
  · exact congrArg Host.Outcome.next (modifyPort_eq (acceptHeld_of_free hrequests hk))
  · exact congrArg Host.Outcome.next (modifyPort_eq (acceptFrom_of_full _ _ hfull))

/-! ## Translation -/

section Translation
variable {s : State} {p : PortId} {k : AccId} {a : Access} {b : Binding}

theorem translateHead_of_fenced (h : s.ports[p].head? = some (k, a)) (hstate : s.ports[p].state = .fenced) :
    s.translateHead p = s.answerHead p k a .errFenced := by
  unfold State.translateHead State.port
  rw [h, hstate]

theorem translateHead_of_detached (h : s.ports[p].head? = some (k, a)) (hstate : s.ports[p].state = .detached) :
    s.translateHead p = s.answerHead p k a .errNomap := by
  unfold State.translateHead State.port
  rw [h, hstate]

theorem translateHead_of_stalled {st : Stall} (hstate : s.ports[p].state = .stalled b st) : s.translateHead p = s := by
  unfold State.translateHead State.port
  rw [hstate]
  split <;> rfl

/-- R28 to R30: past the DRAIN seal and the shape checks. -/
theorem translateBound_of_unheld (hheld : ¬ s.DrainHeld b.slot) :
    s.translateBound p k a b =
      if shapeChecks a then
        match entryFault s.memsize (s.slot b.slot).live[accessPage a] a.kind with
        | some kind => s.stallPort p k a b kind
        | none => s.issueAccess p k a b.slot (s.slot b.slot).live[accessPage a].frame
      else s.answerHead p k a .errBoundary :=
  if_neg (mt (holdsTranslation_iff s b.slot).1 hheld)

theorem translateBound_of_misshapen (hheld : ¬ s.DrainHeld b.slot) (hshape : ¬ InShape a) :
    s.translateBound p k a b = s.answerHead p k a .errBoundary := by
  rw [translateBound_of_unheld hheld, if_neg (mt (shapeChecks_iff a).1 hshape)]

theorem translateBound_of_shaped {page : Page} (hheld : ¬ s.DrainHeld b.slot) (hshape : InShape a)
    (hpage : page.val = a.addr.toNat / 4096) :
    s.translateBound p k a b =
      match entryFault s.memsize s.slots[b.slot].live[page] a.kind with
      | some kind => s.stallPort p k a b kind
      | none => s.issueAccess p k a b.slot s.slots[b.slot].live[page].frame := by
  obtain rfl := accessPage_eq a page hpage
  rw [translateBound_of_unheld hheld, if_pos ((shapeChecks_iff a).2 hshape)]
  rfl

theorem translateHead_of_passed {page : Page} (hhead : s.ports[p].head? = some (k, a))
    (hstate : s.ports[p].state = .attached b) (hheld : ¬ s.DrainHeld b.slot) (hshape : InShape a)
    (hpage : page.val = a.addr.toNat / 4096)
    (hfault : entryFault s.memsize s.slots[b.slot].live[page] a.kind = none) :
    s.translateHead p = s.issueAccess p k a b.slot s.slots[b.slot].live[page].frame := by
  rw [translateHead_of_attached hhead hstate, translateBound_of_shaped hheld hshape hpage, hfault]

theorem translateHead_of_faulted {page : Page} {kind : FaultKind} (hhead : s.ports[p].head? = some (k, a))
    (hstate : s.ports[p].state = .attached b) (hheld : ¬ s.DrainHeld b.slot) (hshape : InShape a)
    (hpage : page.val = a.addr.toNat / 4096)
    (hfault : entryFault s.memsize s.slots[b.slot].live[page] a.kind = some kind) :
    s.translateHead p = s.stallPort p k a b kind := by
  rw [translateHead_of_attached hhead hstate, translateBound_of_shaped hheld hshape hpage, hfault]

end Translation

/-- Settles O15: the three errors that translation answers. -/
theorem translationAnswersErrors : Obligations.TranslationAnswersErrors := by
  intro s p k a kind hhead hcase
  refine congrArg Host.Outcome.next (?_ : s.translateHead p = s.answerHead p k a kind)
  obtain ⟨hstate, rfl⟩ | ⟨hstate, rfl⟩ | ⟨b, hstate, hheld, hshape, rfl⟩ := hcase
  · exact translateHead_of_fenced hhead hstate
  · exact translateHead_of_detached hhead hstate
  · exact (translateHead_of_attached hhead hstate).trans (translateBound_of_misshapen hheld hshape)

/-- Settles O16: the issue through the live entry of the page. -/
theorem translationIssues : Obligations.TranslationIssues := by
  intro s p k a b page hhead hstate hheld hshape hpage hgrants hframe
  exact congrArg Host.Outcome.next
    (translateHead_of_passed hhead hstate hheld hshape hpage (entryFault_eq_none hgrants hframe))

/-! ## Stalls -/

theorem modifyPort_modifyPort_of_ne (s : State) {p q : PortId} (f g : PortRec → PortRec) (h : p ≠ q) :
    (s.modifyPort p f).modifyPort q g = (s.modifyPort q g).modifyPort p f := by
  have hp : (s.modifyPort q g).ports[p] = s.ports[p] := State.ports_modifyPort_ne s g h.symm
  have hq : (s.modifyPort p f).ports[q] = s.ports[q] := State.ports_modifyPort_ne s f h
  unfold State.modifyPort at hp hq ⊢
  rw [hp, hq]
  exact congrArg (fun v => ({ s with ports := v } : State)) (Vector.set_comm _ _ (Fin.val_ne_of_ne h))

/-- A flag is raised before or after another change of port records. -/
theorem raiseSupervisor_modifyPort (s : State) {p : PortId} {f : PortRec → PortRec} (x : Flag)
    (hf : ∀ r : PortRec, f (r.raise x) = (f r).raise x) :
    (s.raiseSupervisor x).modifyPort p f = (s.modifyPort p f).raiseSupervisor x := by
  unfold State.raiseSupervisor
  rw [State.modifyPort_rights]
  cases s.rights.holder with
  | none => rfl
  | some q =>
    by_cases e : q = p
    · subst e
      dsimp only
      rw [modifyPort_modifyPort, modifyPort_modifyPort]
      exact congrArg (s.modifyPort q) (funext hf)
    · exact modifyPort_modifyPort_of_ne s _ _ e

/-- R143: the stall written out, with the FAULT flag set last before the port leaves its waiting set. -/
theorem stallPort_eq (s : State) (p : PortId) (k : AccId) (a : Access) (b : Binding) (kind : FaultKind) :
    s.stallPort p k a b kind =
      ((State.raiseSupervisor
        { s with
          faults := s.faults ++
            [{ seq := s.nextSequence, port := p, stamp := s.stampCount
               body := .access kind b.slot (accessPage a) a.kind a.tag }]
          seqCounter := s.nextSequence + 1
          ports := s.ports.set p (s.ports[p].stallOn k a b s.nextSequence s.stallLimit) } .fault).leaveWaiting p b.slot) := by
  unfold State.stallPort State.joinFault
  rw [raiseSupervisor_modifyPort _ _ fun r => rfl]
  rfl

section EntryFault
variable {memsize : Nat} {e : Entry} {kind : AccessKind} {f : FaultKind}

/-- R31, R32: the entry checks that fail, the rights before the frame. -/
theorem entryFault_eq_some
    (h : e.rights = .none ∧ f = .noEntry ∨ e.rights = .ro ∧ kind = .write ∧ f = .writeDenied e.frame ∨
      e.rights.Grants kind ∧ memsize ≤ e.frame.toNat ∧ f = .frameRange e.frame) : entryFault memsize e kind = some f := by
  unfold entryFault
  obtain ⟨hrights, rfl⟩ | ⟨hrights, rfl, rfl⟩ | ⟨hgrants, hframe, rfl⟩ := h
  · rw [hrights]
  · rw [hrights]
  · obtain hrights | ⟨hrights, rfl⟩ := hgrants
    · rw [hrights]
      exact if_pos hframe
    · rw [hrights]
      exact if_pos hframe

end EntryFault

/-- Settles O17: the stall of a port whose head access fails an entry check. -/
theorem translationStalls : Obligations.TranslationStalls := by
  intro s p k a b page f hhead hstate hheld hshape hpage hfault
  refine congrArg Host.Outcome.next
    ((translateHead_of_faulted hhead hstate hheld hshape hpage (entryFault_eq_some hfault)).trans ?_)
  rw [stallPort_eq, accessPage_eq a page hpage]
  rfl

/-! ## The head access -/

theorem head?_eq_some_iff (r : PortRec) (k : AccId) (a : Access) :
    r.head? = some (k, a) ↔
      ∃ older younger, r.arrival = older ++ k :: younger ∧ r.slots[k] = some { access := a, state := .untranslated } ∧
        ∀ j ∈ older, ∀ b : Access, r.slots[j] ≠ some { access := b, state := .untranslated } := by
  unfold PortRec.head?
  rw [List.findSome?_eq_some_iff]
  have hfound (j : AccId) : (match r.slots[j] with
      | some { access := b, state := .untranslated } => some (j, b)
      | _ => none) = some (k, a) ↔ j = k ∧ r.slots[k] = some { access := a, state := .untranslated } := by
    constructor
    · intro h
      split at h
      · next b hb =>
        obtain ⟨rfl, rfl⟩ := Prod.mk.inj (Option.some.inj h)
        exact ⟨rfl, hb⟩
      · cases h
    · rintro ⟨rfl, h⟩
      rw [h]
  have hpassed (j : AccId) : (match r.slots[j] with
      | some { access := b, state := .untranslated } => some (j, b)
      | _ => none) = none ↔ ∀ b : Access, r.slots[j] ≠ some { access := b, state := .untranslated } := by
    constructor
    · intro h b hb
      rw [hb] at h
      cases h
    · intro h
      split
      · next b hb => exact absurd hb (h b)
      · rfl
  constructor
  · rintro ⟨older, j, younger, harrival, hj, holder⟩
    obtain ⟨rfl, hslot⟩ := (hfound j).1 hj
    exact ⟨older, younger, harrival, hslot, fun i hi => (hpassed i).1 (holder i hi)⟩
  · rintro ⟨older, younger, harrival, hslot, holder⟩
    exact ⟨older, k, younger, harrival, (hfound k).2 ⟨rfl, hslot⟩, fun i hi => (hpassed i).2 (holder i hi)⟩

/-- Settles O18: the head access, and the three cases in which it waits or is not there. -/
theorem headAccessAndItsWaits : Obligations.HeadAccessAndItsWaits := by
  refine ⟨head?_eq_some_iff, fun s p hwait => congrArg Host.Outcome.next (?_ : s.translateHead p = s)⟩
  obtain hnone | ⟨b, st, hstate⟩ | ⟨b, hstate, hheld⟩ := hwait
  · exact translateHead_of_none hnone
  · exact translateHead_of_stalled hstate
  · cases hhead : s.ports[p].head? with
    | none => exact translateHead_of_none hhead
    | some x => exact (translateHead_of_attached hhead hstate).trans (translateBound_of_held p x.1 x.2 hheld)

/-! ## Responses -/

section Deliver
variable {s : State} {p : PortId} {k : AccId} {rest : List AccId}

theorem exec_deliverResponse_of_answered {a : Access} {response : Response} {through : Option SlotId}
    (harrival : s.ports[p].arrival = k :: rest)
    (hslot : s.ports[p].slots[k] = some { access := a, state := .answered response through }) :
    exec (.deliverResponse p) s = .next
      { s with
        delivered := s.delivered ++ [(p, response)]
        ports := s.ports.set p
          (PortRec.acceptHeld { s.ports[p] with slots := s.ports[p].slots.set k none, arrival := rest }) } := by
  show execDeliverResponse p s = _
  unfold execDeliverResponse State.port
  rw [harrival]
  dsimp only
  rw [hslot]
  rfl

theorem exec_deliverResponse_of_waiting
    (h : ∀ k rest a response through, s.ports[p].arrival = k :: rest →
      s.ports[p].slots[k] ≠ some { access := a, state := .answered response through }) :
    exec (.deliverResponse p) s = .next s := by
  show execDeliverResponse p s = _
  unfold execDeliverResponse State.port
  split
  case h_1 => rfl
  case h_2 k rest harrival =>
    split
    case h_1 a response through hslot => exact absurd hslot (h k rest a response through harrival)
    case h_2 => rfl

end Deliver

/-- R22: the one slot that has come free takes the request held off first. -/
theorem acceptHeld_of_freed {r : PortRec} {k : AccId} {h : HeldRequest} {more : List HeldRequest}
    (hrequests : r.requests = h :: more) (hk : r.slots[k] = none) (hfull : ∀ j : AccId, j ≠ k → r.slots[j] ≠ none) :
    r.acceptHeld =
      { r with
        slots := r.slots.set k (some { access := h.access, state := .untranslated })
        arrival := r.arrival ++ [k], requests := more } := by
  unfold PortRec.acceptHeld
  rw [hrequests]
  exact acceptFrom_of_one_free r k hk hfull h more

/-- Freeing one slot of a full port leaves that slot alone free. -/
theorem slots_set_none {v : Vector (Option AccessSlot) 8} {k : AccId} (hfull : ∀ j : AccId, v[j] ≠ none) :
    (v.set k none)[k] = none ∧ ∀ j : AccId, j ≠ k → (v.set k none)[j] ≠ none := by
  refine ⟨by rw [getElem_set_slot, if_pos rfl], fun j hj => ?_⟩
  rw [getElem_set_slot, if_neg (Ne.symm hj)]
  exact hfull j

/-- Settles O19: the delivery from the oldest slot, and what is accepted into it. -/
theorem responsesLeaveInOrder : Obligations.ResponsesLeaveInOrder := by
  intro s p
  refine ⟨fun k rest a response through harrival hslot => ⟨fun hrequests => ?_, fun h more hrequests hfull => ?_⟩,
    exec_deliverResponse_of_waiting⟩
  · rw [exec_deliverResponse_of_answered harrival hslot]
    rw [acceptHeld_of_no_requests (r := { s.ports[p] with slots := s.ports[p].slots.set k none, arrival := rest }) hrequests]
  · rw [exec_deliverResponse_of_answered harrival hslot]
    obtain ⟨hk, hothers⟩ := slots_set_none (k := k) hfull
    rw [acceptHeld_of_freed (r := { s.ports[p] with slots := s.ports[p].slots.set k none, arrival := rest }) hrequests hk
      hothers]
    simp

end Sys2Proof.Machine
end

section
/-! The memory port: grants, answers to accesses and to descriptor reads, and the boundaries they reach: O20 to O25, O27. -/

namespace Sys2Proof.Machine

/-! ## Grants -/

theorem find?_finRange_eq_some {n : Nat} {P : Fin n → Bool} {i : Fin n} (hi : P i = true) (hlt : ∀ j < i, P j = false) :
    (List.finRange n).find? P = some i := by
  rw [List.find?_eq_some_iff_getElem]
  refine ⟨hi, i.val, by simp, by simp, fun j hj => ?_⟩
  have hfalse := hlt ⟨j, by omega⟩ hj
  simpa using hfalse

section Grants
variable {s : State} {q : Fin 7} {number : TxnId}

/-- R49: the first ready requester in cyclic order from the round-robin position. -/
theorem nextRequester_eq_some (hq : s.Ready q)
    (hfirst : ∀ o : Fin 7, (o - s.mem.position).val < (q - s.mem.position).val → ¬ s.Ready o) : s.nextRequester = some q := by
  have hback : s.mem.position + (q - s.mem.position) = q := add_sub_cancel ..
  unfold State.nextRequester
  rw [List.find?_map, find?_finRange_eq_some (i := q - s.mem.position)]
  · exact congrArg some hback
  · exact (congrArg s.ready hback).trans ((ready_iff s q).2 hq)
  · intro d hd
    refine Bool.eq_false_iff.2 fun hready => hfirst (s.mem.position + d) ?_ ((ready_iff s _).1 hready)
    rw [add_sub_cancel_left]
    exact hd

/-- R50: the lowest number not in use. -/
theorem freeNumber_eq_some {m : MemPort} (hfree : ∀ e ∈ m.entries, e.number ≠ number)
    (hlowest : ∀ n < number, ∃ e ∈ m.entries, e.number = n) : m.freeNumber = some number := by
  refine find?_finRange_eq_some ?_ fun n hn => ?_
  · simpa using hfree
  · obtain ⟨e, he, hnumber⟩ := hlowest n hn
    exact Bool.eq_false_iff.2 fun hall => by simpa [hnumber] using List.all_eq_true.1 hall e he

/-- R49, R50: the grant that is due. -/
theorem exec_grant_of_due (h : s.GrantDue q number) :
    exec (.grant true) s = .next
      (match requesterPort q with
        | some p => s.grantPort q p number
        | none => s.grantLoad q number) := by
  obtain ⟨hroom, hq, hfirst, hfree, hlowest⟩ := h
  show execGrant true s = _
  unfold execGrant
  rw [if_pos (Bool.and_eq_true_iff.2 ⟨rfl, decide_eq_true (p := s.mem.entries.length < Config.transactionLimit) hroom⟩), nextRequester_eq_some hq hfirst,
    freeNumber_eq_some hfree hlowest]
  dsimp only
  cases requesterPort q <;> rfl

theorem requesterPort_eq_some {p : PortId} (h : p.val = q.val) : requesterPort q = some p := by
  unfold requesterPort
  rw [dif_pos (h ▸ p.isLt)]
  exact congrArg some (Fin.ext h.symm)

end Grants

/-- Settles O20: the head of the issue queue is sent. -/
theorem grantToPort : Obligations.GrantToPort := by
  intro s q number p x rest hdue hp hissue
  rw [exec_grant_of_due hdue, requesterPort_eq_some hp]
  dsimp only
  unfold State.grantPort
  rw [hissue]
  rfl

/-- Settles O21: the read of the RUNNING job is sent. -/
theorem grantToLoadEngine : Obligations.GrantToLoadEngine := by
  intro s number j rest done hdue hjobs hj
  rw [exec_grant_of_due hdue]
  show Host.Outcome.next (s.grantLoad 6 number) = _
  unfold State.grantLoad
  rw [hjobs]
  dsimp only
  rw [hj]
  rfl

/-- Settles O22: one of the three conditions of a grant fails. -/
theorem noGrantMade : Obligations.NoGrantMade := by
  intro s able h
  show execGrant able s = _
  unfold execGrant
  obtain rfl | hfull | hidle := h
  · rfl
  · have hroom : ¬ s.mem.entries.length < Config.transactionLimit := by simp only [Config.transactionLimit]; omega
    rw [if_neg fun h => hroom (of_decide_eq_true (Bool.and_eq_true_iff.1 h).2)]
  · have hnone : s.nextRequester = none := by
      refine List.find?_eq_none.2 fun q _ hq => hidle q ((ready_iff s q).1 hq)
    rw [hnone]
    split <;> rfl

/-! ## Answers to accesses -/

section AnswerAccess
variable {s : State} {x : MemAnswer} {before after : List OutEntry} {e : OutEntry} {p : PortId} {k : AccId}
  {through : SlotId}

/-- R53, R83: the answer is placed, the in-flight count falls and the boundary is tested. -/
theorem exec_memoryAnswer_of_port {r : PortRec} (first : List PortId) (h : s.Answers x before e after)
    (he : e.requester = .port p k through) (hr : s.ports[p].placeAnswer k x.outcome x.data = r) :
    exec (.memoryAnswerAccess x first) s = .next
      (State.testBoundary
        { s with
          mem := { s.mem with entries := before ++ after }
          slots := s.slots.set through { s.slots[through] with inFlight := s.slots[through].inFlight - 1 }
          ports := s.ports.set p r } through first) := by
  subst hr
  show Host.Outcome.next (s.memoryAnswer x first) = _
  rw [memoryAnswer_of_answers h, he]
  rfl

theorem memoryResponse_eq (a : Access) (outcome : MemOutcome) (data : List Byte) :
    memoryResponse a outcome data =
      { tag := a.tag, kind := if outcome = .success then .ok else .errMemory
        data := if outcome = .success ∧ a.kind = .read then data else [] } := by
  unfold memoryResponse
  cases outcome with
  | error => rfl
  | success => cases a.kind <;> rfl

theorem placeAnswer_of_unmarked {r : PortRec} {a : Access} {n : SlotId} {outcome : MemOutcome} {data : List Byte}
    (h : r.slots[k] = some { access := a, state := .issued n false }) :
    r.placeAnswer k outcome data =
      { r with
        slots := r.slots.set k
          (some { access := a, state := .answered (memoryResponse a outcome data) (some n) }) } := by
  unfold PortRec.placeAnswer
  rw [h]

theorem placeAnswer_of_marked {r : PortRec} {a : Access} {n : SlotId} {outcome : MemOutcome} {data : List Byte}
    (h : r.slots[k] = some { access := a, state := .issued n true }) :
    r.placeAnswer k outcome data = PortRec.acceptHeld { r with slots := r.slots.set k none } := by
  unfold PortRec.placeAnswer
  rw [h]

end AnswerAccess

/-- Settles O23: the three slots an answer can find. -/
theorem answerReachesAccess : Obligations.AnswerReachesAccess := by
  intro s x before after e p k through n a first h he
  refine ⟨fun hslot => ?_, fun hslot => ⟨fun hrequests => ?_, fun held more hrequests hfull => ?_⟩⟩
  · refine exec_memoryAnswer_of_port first h he ?_
    rw [placeAnswer_of_unmarked hslot, memoryResponse_eq]
  · refine exec_memoryAnswer_of_port first h he ((placeAnswer_of_marked hslot).trans ?_)
    exact acceptHeld_of_no_requests hrequests
  · refine exec_memoryAnswer_of_port first h he ((placeAnswer_of_marked hslot).trans ?_)
    obtain ⟨hk, hothers⟩ := slots_set_none (k := k) hfull
    rw [acceptHeld_of_freed (r := { s.ports[p] with slots := s.ports[p].slots.set k none }) hrequests hk hothers]
    simp

/-! ## Answers to descriptor reads -/

/-- Chapter 11: four bytes, the lowest address first, make the word. -/
theorem wordOfBytes_eq (w : Word) :
    wordOfBytes [w.extractLsb' 0 8, w.extractLsb' 8 8, w.extractLsb' 16 8, w.extractLsb' 24 8] = w := by
  have hhigh : w.extractLsb' 24 8 ++ w.extractLsb' 16 8 = w.extractLsb' 16 16 :=
    BitVec.extractLsb'_append_extractLsb'_eq_extractLsb' rfl
  have hmiddle : w.extractLsb' 16 16 ++ w.extractLsb' 8 8 = w.extractLsb' 8 24 :=
    BitVec.extractLsb'_append_extractLsb'_eq_extractLsb' rfl
  have hlow : w.extractLsb' 8 24 ++ w.extractLsb' 0 8 = w.extractLsb' 0 32 :=
    BitVec.extractLsb'_append_extractLsb'_eq_extractLsb' rfl
  calc wordOfBytes _ = w.extractLsb' 24 8 ++ w.extractLsb' 16 8 ++ w.extractLsb' 8 8 ++ w.extractLsb' 0 8 := by
        simp only [wordOfBytes, List.getD_cons_zero, List.getD_cons_succ]
    _ = w.extractLsb' 0 32 := by rw [hhigh, hmiddle, hlow]
    _ = w := by simp

section AnswerLoad
variable {s : State} {x : MemAnswer} {before after : List OutEntry} {e : OutEntry} {j : Job} {rest : List Job} {done : Nat}

theorem exec_memoryAnswer_of_loadEngine (first : List PortId) (h : s.Answers x before e after)
    (he : e.requester = .loadEngine) :
    exec (.memoryAnswerDescriptor x first) s = .next
      (State.answerLoad { s with mem := { s.mem with entries := before ++ after } } x.outcome x.data) := by
  show Host.Outcome.next (s.memoryAnswer x first) = _
  rw [memoryAnswer_of_answers h, he]
  rfl

theorem answerLoad_of_marked {outcome : MemOutcome} {data : List Byte} (hjobs : s.jobs = j :: rest)
    (hj : j.state = .running done (.outstanding true)) : s.answerLoad outcome data = s.endRunning .aborted done := by
  unfold State.answerLoad
  rw [hjobs]
  dsimp only
  rw [hj]

theorem answerLoad_of_error {data : List Byte} (hjobs : s.jobs = j :: rest)
    (hj : j.state = .running done (.outstanding false)) :
    s.answerLoad .error data = s.endRunning .failedMemory done := by
  unfold State.answerLoad
  rw [hjobs]
  dsimp only
  rw [hj]

theorem answerLoad_of_malformed {data : List Byte} (hjobs : s.jobs = j :: rest)
    (hj : j.state = .running done (.outstanding false)) (hw : descriptorOf (wordOfBytes data) = .malformed) :
    s.answerLoad .success data = s.endRunning .badDescriptor done := by
  unfold State.answerLoad
  rw [hjobs]
  dsimp only
  rw [hj]
  dsimp only
  rw [hw]

theorem answerLoad_of_wellFormed {data : List Byte} {d : Descriptor} (hjobs : s.jobs = j :: rest)
    (hj : j.state = .running done (.outstanding false)) (hw : descriptorOf (wordOfBytes data) = d) (hd : d ≠ .malformed) :
    s.answerLoad .success data = (s.descriptorWrite j.slot (j.page done) d).pageDone j rest (done + 1) := by
  unfold State.answerLoad
  rw [hjobs]
  dsimp only
  rw [hj]
  dsimp only
  rw [hw]
  cases d with
  | malformed => exact absurd rfl hd
  | keep | set => rfl

theorem descriptorOf_of_reserved {w : Word} (h : w.extractLsb' 14 18 ≠ 0) : descriptorOf w = .malformed := if_neg h

theorem descriptorOf_of_keep {w : Word} (h : w.extractLsb' 14 18 = 0) (hcode : w.extractLsb' 12 2 = 2) :
    descriptorOf w = .keep := by
  unfold descriptorOf
  rw [if_pos h, (rightsOf_eq_none_iff _).2 hcode]

theorem descriptorOf_of_rights {w : Word} {g : Rights} (h : w.extractLsb' 14 18 = 0)
    (hcode : w.extractLsb' 12 2 = 0 ∧ g = .none ∨ w.extractLsb' 12 2 = 1 ∧ g = .ro ∨ w.extractLsb' 12 2 = 3 ∧ g = .rw) :
    descriptorOf w = .set (w.extractLsb' 0 12) g := by
  unfold descriptorOf
  rw [if_pos h, rightsOf_eq_some hcode]

theorem page_eq {page : Page} (h : page.val = j.first.val + done) : j.page done = page := by
  apply Fin.ext
  have := page.isLt
  simp only [Job.page, Fin.val_ofNat]
  omega

/-- R14, R66: what a well-formed word makes of the slot of its job. -/
theorem descriptorWrite_eq {w : Word} {page : Page} {m : MapSlot} (hpage : page.val = j.first.val + done)
    (hreserved : w.extractLsb' 14 18 = 0)
    (hm : w.extractLsb' 12 2 = 2 ∧ m = s.slots[j.slot] ∨
      ∃ g : Rights,
        (w.extractLsb' 12 2 = 0 ∧ g = .none ∨ w.extractLsb' 12 2 = 1 ∧ g = .ro ∨ w.extractLsb' 12 2 = 3 ∧ g = .rw) ∧
        m =
          { s.slots[j.slot] with
            staged := s.slots[j.slot].staged.set page { frame := w.extractLsb' 0 12, rights := g }
            condition := .dirty }) :
    descriptorOf w ≠ .malformed ∧
      s.descriptorWrite j.slot (j.page done) (descriptorOf w) = { s with slots := s.slots.set j.slot m } := by
  obtain ⟨hcode, rfl⟩ | ⟨g, hcode, rfl⟩ := hm
  · rw [descriptorOf_of_keep hreserved hcode]
    refine ⟨nofun, ?_⟩
    simp [State.descriptorWrite]
  · rw [descriptorOf_of_rights hreserved hcode, page_eq hpage]
    exact ⟨nofun, rfl⟩

theorem pageDone_of_lt (h : done + 1 < j.count) :
    s.pageDone j rest (done + 1) = { s with jobs := { j with state := .running (done + 1) .requested } :: rest } :=
  if_neg (by omega)

theorem pageDone_of_eq (h : done + 1 = j.count) (hjobs : s.jobs = j :: rest) (hqueued : ∀ k ∈ rest, k.state = .queued) :
    s.pageDone j rest (done + 1) = State.loadCompleted { s with jobs := started rest } j .ok j.count := by
  rw [← h, ← endRunning_of_cons (j := j) .ok (done + 1) hjobs hqueued]
  exact if_pos (by omega)

end AnswerLoad

/-- Settles O24: the write, and the two ways the job goes on. -/
theorem descriptorApplied : Obligations.DescriptorApplied := by
  intro s x first before after e j rest done w page m h he houtcome hdata hruns hj hpage hreserved hm
  obtain ⟨hjobs, hqueued⟩ := hruns
  obtain ⟨hformed, hwrite⟩ := descriptorWrite_eq (s := { s with mem := { s.mem with entries := before ++ after } }) hpage
    hreserved hm
  have hword : descriptorOf (wordOfBytes x.data) = descriptorOf w := by rw [hdata, wordOfBytes_eq]
  have hanswer := (answerLoad_of_wellFormed (s := { s with mem := { s.mem with entries := before ++ after } }) hjobs hj hword
    hformed).trans (congrArg (State.pageDone · j rest (done + 1)) hwrite)
  have hexec := exec_memoryAnswer_of_loadEngine first h he
  rw [houtcome] at hexec
  refine ⟨fun hmore => hexec.trans (congrArg Host.Outcome.next (hanswer.trans (pageDone_of_lt hmore))), fun hlast => ?_⟩
  exact hexec.trans (congrArg Host.Outcome.next (hanswer.trans (pageDone_of_eq hlast (by exact hjobs) hqueued)))

/-- Settles O25: the three ends of a job that write nothing. -/
theorem descriptorEndsJob : Obligations.DescriptorEndsJob := by
  intro s x first before after e j rest done marked status h he hruns hj hcase
  obtain ⟨hjobs, hqueued⟩ := hruns
  rw [exec_memoryAnswer_of_loadEngine first h he]
  refine congrArg Host.Outcome.next (Eq.trans ?_
    (endRunning_of_cons (s := { s with mem := { s.mem with entries := before ++ after } }) (j := j) status done hjobs hqueued))
  obtain ⟨rfl, rfl⟩ | ⟨rfl, houtcome, rfl⟩ | ⟨rfl, houtcome, rfl, w, hw, hdata⟩ := hcase
  · exact answerLoad_of_marked hjobs hj
  · rw [houtcome]
    exact answerLoad_of_error hjobs hj
  · rw [houtcome]
    exact answerLoad_of_malformed hjobs hj (by rw [hdata, wordOfBytes_eq, descriptorOf_of_reserved hw])

/-! ## Orders -/

/-- The order in which the members of `all` are taken: those of `first`, then the others. -/
def takenFirst {α : Type} [DecidableEq α] (all first : List α) : List α := first.dedup ++ all.filter (· ∉ first)

section TakenFirst
variable {α : Type} [DecidableEq α] {all first order : List α}

theorem count_takenFirst (hall : all.Nodup) {a : α} (ha : a ∈ all) : (takenFirst all first).count a = 1 := by
  unfold takenFirst
  rw [List.count_append]
  by_cases h : a ∈ first
  · rw [List.count_eq_one_of_mem (List.nodup_dedup _) (by simpa using h), List.count_eq_zero_of_not_mem (by simp [h])]
  · rw [List.count_eq_zero_of_not_mem (by simpa using h), List.count_eq_one_of_mem (hall.filter _) (by simp [h, ha])]

theorem takenFirst_starts_with (h : first.Nodup) : first <+: takenFirst all first := by
  unfold takenFirst
  rw [h.dedup]
  exact List.prefix_append ..

theorem takenFirst_of_perm (hall : all.Nodup) (h : order.Perm all) : takenFirst all order = order := by
  unfold takenFirst
  rw [(h.nodup_iff.2 hall).dedup, List.filter_eq_nil_iff.2, List.append_nil]
  intro a ha
  simpa using h.mem_iff.2 ha

end TakenFirst

theorem portOrder_eq (first : List PortId) : portOrder first = takenFirst (List.finRange 6) first := rfl

/-! ## Boundaries -/

theorem Condition.waiting_of_mark {x : Condition} {c : PendingCommit} {waiting : List PortId} (hx : x = .sealed c)
    (hb : c.boundary = .mark waiting) : x.waiting = waiting := by
  subst hx
  unfold Condition.waiting
  dsimp only
  rw [hb]

theorem Condition.waiting_of_drain {x : Condition} {c : PendingCommit} (hx : x = .sealed c) (hb : c.boundary = .drain) :
    x.waiting = [] := by
  subst hx
  unfold Condition.waiting
  dsimp only
  rw [hb]

theorem Condition.waiting_of_unsealed {x : Condition} (hx : x = .clean ∨ x = .dirty) : x.waiting = [] := by
  obtain rfl | rfl := hx <;> rfl

/-- Settles O27: every case of a test and of a leave, and the orders of the ports. -/
theorem boundaryBringsSwap : Obligations.BoundaryBringsSwap := by
  refine ⟨fun s n first => ⟨fun hopen => ⟨testBoundary_of_not_sealed first hopen, fun p => ?_⟩, fun c hc => ⟨fun hb => ?_, ?_⟩⟩,
    count_portOrder, fun first => takenFirst_starts_with, fun order => takenFirst_of_perm (List.nodup_finRange 6)⟩
  · exact leaveWaiting_of_not_mem (Condition.waiting_of_unsealed hopen ▸ List.not_mem_nil)
  · have htest := testBoundary_of_drain first hc hb
    refine ⟨fun p => leaveWaiting_of_not_mem (Condition.waiting_of_drain hc hb ▸ List.not_mem_nil), fun hzero => ?_, fun hmore => ?_⟩
    · rw [htest, if_pos hzero]
    · rw [htest, if_neg hmore]
  · intro waiting hb
    have htest := testBoundary_of_mark first hc hb
    refine ⟨fun hnone => by rw [htest, if_pos hnone], fun hsome => by rw [htest, if_neg hsome], fun p => ⟨fun hp => ?_, ?_, ?_⟩⟩
    · exact leaveWaiting_of_not_mem (Condition.waiting_of_mark hc hb ▸ hp)
    · intro hp hlast
      rw [leaveWaiting_of_mem hc hb hp, if_pos hlast]
    · rintro hp ⟨q, hq, hne⟩
      rw [leaveWaiting_of_mem hc hb hp, if_neg fun hall => hne (hall q hq)]

end Sys2Proof.Machine
end

section
/-! Ticks, leases and stall timers: O29 to O32. -/

namespace Sys2Proof.Machine

/-! ## The parts of a tick -/

theorem tickOrder_eq (first : List TickPart) : tickOrder first = takenFirst tickParts first := rfl

theorem mem_tickParts (part : TickPart) : part ∈ tickParts := by
  cases part <;> simp [tickParts]

theorem nodup_tickParts : tickParts.Nodup := by decide

theorem mem_tickOrder (first : List TickPart) (part : TickPart) : part ∈ tickOrder first := by
  refine List.count_pos_iff.1 ?_
  rw [tickOrder_eq, count_takenFirst nodup_tickParts (mem_tickParts part)]
  exact Nat.one_pos

theorem nodup_tickOrder (first : List TickPart) : (tickOrder first).Nodup :=
  List.nodup_iff_count_eq_one.2 fun part _ => count_takenFirst nodup_tickParts (mem_tickParts part)

theorem Phase.counts_iff (x : Phase) : x.counts = true ↔ x ≠ .frozen := by
  cases x <;> simp [Phase.counts]

/-! ## A part that expires nothing -/

section Parts
variable {s : State} {p : PortId} {b : Binding} {st : Stall} {r : PortRec}

theorem ticked_of_attached (h : r.state = .attached b) : r.ticked = r.countTick b := by
  rw [countTick_eq]
  unfold PortRec.ticked
  rw [h]
  cases hw : b.lease.warned <;> by_cases hticks : r.params.period - (b.lease.remaining - 1) = r.params.warningTicks <;>
    simp [LeaseParams.count, PortRec.raise, Flag.mask, Flag.place, hw, hticks]

theorem ticked_of_stalled (h : r.state = .stalled b st) :
    r.ticked = { r with state := .stalled b { st with timer := st.timer.map (· - 1) } } := by
  unfold PortRec.ticked
  rw [h]

theorem ticked_of_unbound (h : r.state = .detached ∨ r.state = .fenced) : r.ticked = r := by
  unfold PortRec.ticked
  obtain h | h := h <;> rw [h]

theorem ticked_of_stopped (h : r.state = .stalled b st) (htimer : st.timer = none) : r.ticked = r := by
  rw [ticked_of_stalled h, htimer, Option.map_none, ← htimer, ← h]

/-- R121: the lease counts while more than one tick remains. -/
theorem tickLease_of_counts (h : s.ports[p].state = .attached b) (hphase : b.lease.phase ≠ .frozen)
    (hticks : 2 ≤ b.lease.remaining) : s.tickLease p = { s with ports := s.ports.set p s.ports[p].ticked } := by
  have hmore : (s.ports[p].params.count b.lease).remaining ≠ 0 := Nat.sub_ne_zero_of_lt hticks
  unfold State.tickLease State.port
  rw [h]
  dsimp only
  rw [if_pos ((Phase.counts_iff _).2 hphase), if_neg hmore, ticked_of_attached h]
  rfl

/-- R126: at the last tick the port is fenced. -/
theorem tickLease_of_expires (h : s.ports[p].state = .attached b) (hphase : b.lease.phase ≠ .frozen)
    (hticks : b.lease.remaining = 1) :
    s.tickLease p = (s.modifyPort p (·.countTick b)).enterFenced p (some .expired) := by
  have hlast : (s.ports[p].params.count b.lease).remaining = 0 := by simp [LeaseParams.count, hticks]
  unfold State.tickLease State.port
  rw [h]
  dsimp only
  rw [if_pos ((Phase.counts_iff _).2 hphase), if_pos hlast]

theorem tickLease_of_not_counts (h : ∀ b : Binding, s.ports[p].state = .attached b → b.lease.phase = .frozen) :
    s.tickLease p = s := by
  unfold State.tickLease State.port
  cases hstate : s.ports[p].state with
  | attached b =>
    dsimp only
    rw [h b hstate]
    exact if_neg Bool.false_ne_true
  | detached | stalled | fenced => rfl

/-- R151: the timer falls while more than one tick remains. -/
theorem tickTimer_of_runs {n : Nat} (h : s.ports[p].state = .stalled b st) (htimer : st.timer = some n) (hn : 2 ≤ n) :
    s.tickTimer p = { s with ports := s.ports.set p s.ports[p].ticked } := by
  unfold State.tickTimer State.port
  rw [h]
  dsimp only
  rw [htimer]
  dsimp only
  rw [if_neg (by omega), ticked_of_stalled h, htimer]
  rfl

theorem tickTimer_of_expires (h : s.ports[p].state = .stalled b st) (htimer : st.timer = some 1) :
    s.tickTimer p = s.expireTimer p := by
  unfold State.tickTimer State.port
  rw [h]
  dsimp only
  rw [htimer]
  rfl

theorem tickTimer_of_not_runs (h : ∀ b st, s.ports[p].state = .stalled b st → st.timer = none) : s.tickTimer p = s := by
  unfold State.tickTimer State.port
  cases hstate : s.ports[p].state with
  | stalled b st =>
    dsimp only
    rw [h b st hstate]
  | detached | attached | fenced => rfl

end Parts

/-- Settles O29: the order of the parts, and what each does. -/
theorem tickTakesEachPartOnce : Obligations.TickTakesEachPartOnce := by
  refine ⟨fun first part => count_takenFirst nodup_tickParts (mem_tickParts part), fun first => takenFirst_starts_with,
    fun order => takenFirst_of_perm nodup_tickParts, fun first s => rfl, fun s p => ⟨rfl, ?_, ?_, ?_, ?_⟩⟩
  · exact fun b hb hphase hticks => tickLease_of_counts hb hphase hticks
  · exact fun h => tickLease_of_not_counts h
  · exact fun b st n hst htimer hn => tickTimer_of_runs hst htimer hn
  · exact fun h => tickTimer_of_not_runs h

/-! ## A tick that expires nothing -/

/-- The part of a tick that reaches port `p` in this state; an unbound port is left alone by both. -/
def PortState.tickPart (x : PortState) (p : PortId) : TickPart :=
  match x with
  | .stalled _ _ => .timer p
  | .detached | .attached _ | .fenced => .lease p

/-- Port `p` after the parts of `done`. -/
def PortRec.tickedBy (r : PortRec) (p : PortId) (done : List TickPart) : PortRec :=
  if r.state.tickPart p ∈ done then r.ticked else r

/-- The hub after the parts of `done`, none of which expires anything. -/
def State.tickedBy (s : State) (done : List TickPart) : State :=
  { s with
    stampCount := if .stamp ∈ done then s.stampCount + 1 else s.stampCount
    ports := Vector.ofFn fun p : PortId => s.ports[p].tickedBy p done }

section TickedBy
variable {s : State} {p q : PortId} {r : PortRec} {part : TickPart} {done : List TickPart}

theorem PortRec.tickedBy_snoc_of_ne (h : part ≠ r.state.tickPart p) : r.tickedBy p (done ++ [part]) = r.tickedBy p done := by
  simp [PortRec.tickedBy, h.symm]

theorem PortRec.tickedBy_snoc_self : r.tickedBy p (done ++ [r.state.tickPart p]) = r.ticked := by
  simp [PortRec.tickedBy]

theorem PortRec.tickedBy_of_notMem (h : r.state.tickPart p ∉ done) : r.tickedBy p done = r := if_neg h

theorem PortRec.tickedBy_of_unbound (h : r.state = .detached ∨ r.state = .fenced) : r.tickedBy p done = r := by
  unfold PortRec.tickedBy
  rw [ticked_of_unbound h, ite_self]

theorem PortState.tickPart_ne_stamp (x : PortState) : x.tickPart p ≠ .stamp := by
  cases x <;> exact nofun

theorem PortState.tickPart_ne_of_ne (x y : PortState) (h : q ≠ p) : x.tickPart q ≠ y.tickPart p := by
  cases x <;> cases y <;> simp [PortState.tickPart, h]

/-- Each port is reached by its own two parts alone. -/
theorem PortState.eq_of_tickPart_eq {x : PortState} (hpart : part = .lease p ∨ part = .timer p) (h : part = x.tickPart q) :
    q = p := by
  obtain rfl | rfl := hpart <;> cases x <;> simp_all [PortState.tickPart]

/-- A tick that expires nothing moves no port between the states. -/
theorem PortRec.code_tickedBy (r : PortRec) (p : PortId) (done : List TickPart) :
    (r.tickedBy p done).state.code = r.state.code := by
  unfold PortRec.tickedBy PortRec.ticked
  split
  · cases h : r.state <;> simp [h, PortState.code]
  · rfl

theorem State.ports_tickedBy (s : State) (p : PortId) (done : List TickPart) :
    (s.tickedBy done).ports[p] = s.ports[p].tickedBy p done := Vector.getElem_ofFn p.isLt

theorem State.tickedBy_nil (s : State) : s.tickedBy [] = s := by
  unfold State.tickedBy PortRec.tickedBy
  simp

/-- A part adds nothing when its port is reached by the other part, or is not bound. -/
theorem State.tickedBy_snoc_of_idle (hpart : part = .lease p ∨ part = .timer p)
    (h : part = s.ports[p].state.tickPart p → s.ports[p].ticked = s.ports[p]) :
    s.tickedBy (done ++ [part]) = s.tickedBy done := by
  have hports : ∀ q : PortId, s.ports[q].tickedBy q (done ++ [part]) = s.ports[q].tickedBy q done := by
    intro q
    by_cases hq : part = s.ports[q].state.tickPart q
    · obtain rfl := PortState.eq_of_tickPart_eq hpart hq
      unfold PortRec.tickedBy
      rw [h hq, ite_self, ite_self]
    · exact PortRec.tickedBy_snoc_of_ne hq
  have hstamp : TickPart.stamp ≠ part := by obtain rfl | rfl := hpart <;> exact nofun
  unfold State.tickedBy
  simp only [hports, List.mem_append, List.mem_singleton, hstamp, or_false]

/-- The part that reaches port `p` counts there and nowhere else. -/
theorem State.tickedBy_snoc_self (hpart : part = s.ports[p].state.tickPart p) :
    s.tickedBy (done ++ [part]) = { s.tickedBy done with ports := (s.tickedBy done).ports.set p s.ports[p].ticked } := by
  have hports : (s.tickedBy (done ++ [part])).ports = (s.tickedBy done).ports.set p s.ports[p].ticked := by
    refine Vector.ext fun i hi => ?_
    refine (State.ports_tickedBy s ⟨i, hi⟩ _).trans ?_
    by_cases hq : ⟨i, hi⟩ = p
    · subst hq
      rw [hpart, PortRec.tickedBy_snoc_self, Vector.getElem_set_self]
    · rw [PortRec.tickedBy_snoc_of_ne (hpart ▸ PortState.tickPart_ne_of_ne _ _ (Ne.symm hq)),
        Vector.getElem_set_ne _ _ fun hi => hq (Fin.ext hi.symm)]
      exact (State.ports_tickedBy s ⟨i, hi⟩ _).symm
  have hstamp : TickPart.stamp ≠ part := hpart ▸ (PortState.tickPart_ne_stamp _).symm
  rw [← hports]
  unfold State.tickedBy
  simp only [List.mem_append, List.mem_singleton, hstamp, or_false]

/-- No lease and no stall timer is one tick from its end, and no lease of an ATTACHED port is FROZEN. -/
def State.NothingExpires (s : State) : Prop :=
  (∀ (p : PortId) (b : Binding), s.ports[p].state = .attached b → 2 ≤ b.lease.remaining ∧ b.lease.phase ≠ .frozen) ∧
  ∀ (p : PortId) (b : Binding) (st : Stall), s.ports[p].state = .stalled b st → ∀ n ∈ st.timer, 2 ≤ n

theorem tickStamp_tickedBy (hdone : .stamp ∉ done) : (s.tickedBy done).tickStamp = s.tickedBy (done ++ [.stamp]) := by
  have hports : ∀ p : PortId, s.ports[p].tickedBy p (done ++ [.stamp]) = s.ports[p].tickedBy p done := fun p =>
    PortRec.tickedBy_snoc_of_ne (PortState.tickPart_ne_stamp _).symm
  unfold State.tickedBy State.tickStamp
  simp only [hports, hdone, List.mem_append, List.mem_singleton, or_true, if_true, if_false]

theorem tickLease_tickedBy (hs : s.NothingExpires) (hdone : .lease p ∉ done) :
    (s.tickedBy done).tickLease p = s.tickedBy (done ++ [.lease p]) := by
  have hport := State.ports_tickedBy s p done
  have hcode := PortRec.code_tickedBy s.ports[p] p done
  rw [← hport] at hcode
  cases hstate : s.ports[p].state with
  | attached b =>
    obtain ⟨hticks, hphase⟩ := hs.1 p b hstate
    rw [PortRec.tickedBy_of_notMem (by rw [hstate]; exact hdone)] at hport
    rw [tickLease_of_counts (hport ▸ hstate) hphase hticks, hport, State.tickedBy_snoc_self (p := p) (by rw [hstate]; rfl)]
  | detached | fenced =>
    rw [tickLease_of_not_counts, State.tickedBy_snoc_of_idle (.inl rfl) fun _ => ticked_of_unbound (by rw [hstate]; simp)]
    intro b hb
    rw [hb, hstate] at hcode
    simp [PortState.code] at hcode
  | stalled =>
    rw [tickLease_of_not_counts, State.tickedBy_snoc_of_idle (.inl rfl)]
    · intro hpart
      rw [hstate] at hpart
      cases hpart
    · intro b hb
      rw [hb, hstate] at hcode
      simp [PortState.code] at hcode

theorem tickTimer_tickedBy (hs : s.NothingExpires) (hdone : .timer p ∉ done) :
    (s.tickedBy done).tickTimer p = s.tickedBy (done ++ [.timer p]) := by
  have hport := State.ports_tickedBy s p done
  have hcode := PortRec.code_tickedBy s.ports[p] p done
  rw [← hport] at hcode
  cases hstate : s.ports[p].state with
  | stalled b st =>
    rw [PortRec.tickedBy_of_notMem (by rw [hstate]; exact hdone)] at hport
    have hstalled : (s.tickedBy done).ports[p].state = .stalled b st := hport ▸ hstate
    cases htimer : st.timer with
    | some n =>
      rw [tickTimer_of_runs hstalled htimer (hs.2 p b st hstate n htimer), hport,
        State.tickedBy_snoc_self (p := p) (by rw [hstate]; rfl)]
    | none =>
      rw [tickTimer_of_not_runs (by simp_all), State.tickedBy_snoc_of_idle (.inr rfl)]
      exact fun _ => ticked_of_stopped hstate htimer
  | detached | attached | fenced =>
    rw [tickTimer_of_not_runs, State.tickedBy_snoc_of_idle (.inr rfl)]
    · intro hpart
      rw [hstate] at hpart
      cases hpart
    · intro b st hst
      rw [hst, hstate] at hcode
      simp [PortState.code] at hcode

theorem tickPart_tickedBy (hs : s.NothingExpires) (hdone : part ∉ done) :
    (s.tickedBy done).tickPart part = s.tickedBy (done ++ [part]) := by
  cases part with
  | stamp => exact tickStamp_tickedBy hdone
  | lease p => exact tickLease_tickedBy hs hdone
  | timer p => exact tickTimer_tickedBy hs hdone

theorem foldl_tickPart_tickedBy (hs : s.NothingExpires) (order : List TickPart) (hnodup : (done ++ order).Nodup) :
    order.foldl State.tickPart (s.tickedBy done) = s.tickedBy (done ++ order) := by
  induction order generalizing done with
  | nil => rw [List.append_nil, List.foldl_nil]
  | cons part order ih =>
    have hpart : part ∉ done := fun hmem => (List.disjoint_of_nodup_append hnodup) hmem List.mem_cons_self
    rw [List.append_cons] at hnodup ⊢
    rw [List.foldl_cons, tickPart_tickedBy hs hpart, ih hnodup]

end TickedBy

/-- Settles O30: no part of the tick meets a port that another part has changed. -/
theorem tickCounts : Obligations.TickCounts := by
  refine ⟨fun l => ⟨rfl, rfl⟩, fun s first hleases htimers => congrArg Host.Outcome.next ?_⟩
  have hfold := foldl_tickPart_tickedBy (done := []) ⟨hleases, htimers⟩ (tickOrder first) (nodup_tickOrder first)
  rw [State.tickedBy_nil] at hfold
  refine hfold.trans ?_
  unfold State.tickedBy PortRec.tickedBy
  simp only [List.nil_append, mem_tickOrder, if_true]

/-! ## Lease violations -/

section Violations
variable {s : State} {p : PortId} {b : Binding}

/-- R119, R121: the last tick of a lease comes after the one of its warning. -/
theorem tickLease_of_last (h : s.ports[p].state = .attached b) (hphase : b.lease.phase ≠ .frozen)
    (hperiod : 64 ≤ s.ports[p].params.period) (hticks : b.lease.remaining = 1) :
    s.tickLease p = s.enterFenced p (some .expired) := by
  rw [tickLease_of_expires h hphase hticks, enterFenced_countTick _ h]
  refine if_neg ?_
  have hwarning : s.ports[p].params.period ≠ s.ports[p].params.warningTicks := by
    unfold LeaseParams.warningTicks
    omega
  have hdue : s.ports[p].params.period - (b.lease.remaining - 1) ≠ s.ports[p].params.warningTicks := by omega
  unfold LeaseParams.count
  cases b.lease.warned <;> simp only [hdue, decide_false, Bool.or_false, Bool.not_true, Bool.and_false, Bool.false_and,
    Bool.false_eq_true, not_false_iff]

theorem exec_leaseExpiry_of_attached (h : s.ports[p].state = .attached b) :
    exec (.leaseExpiry p) s = .next (if b.lease.remaining = 1 then s.tickLease p else s) := by
  show execLeaseExpiry p s = _
  unfold execLeaseExpiry State.port
  rw [h]
  dsimp only
  split <;> rfl

theorem exec_leaseExpiry_of_not_attached (h : ∀ b : Binding, s.ports[p].state ≠ .attached b) :
    exec (.leaseExpiry p) s = .next s := by
  show execLeaseExpiry p s = _
  unfold execLeaseExpiry State.port
  cases hstate : s.ports[p].state with
  | attached b => exact absurd hstate (h b)
  | detached | stalled | fenced => rfl

theorem takeRenewal_of_closed {number : BitVec 8} (h : s.ports[p].state = .attached b) (hphase : b.lease.phase = .closed) :
    s.takeRenewal p number = s.enterFenced p (some .early) := by
  unfold State.takeRenewal State.port
  rw [h]
  dsimp only
  rw [hphase]

theorem takeRenewal_of_unexpected {number : BitVec 8} (h : s.ports[p].state = .attached b)
    (hphase : b.lease.phase = .fresh ∨ b.lease.phase = .opened) (hnumber : number ≠ b.lease.expected) :
    s.takeRenewal p number = s.enterFenced p (some .sequence) := by
  unfold State.takeRenewal State.port
  rw [h]
  dsimp only
  obtain hphase | hphase := hphase <;> rw [hphase] <;> exact if_neg hnumber

end Violations

/-- Settles O31: the three violations, each at an ATTACHED port whose lease counts. -/
theorem leaseViolationsFence : Obligations.LeaseViolationsFence := by
  intro s p
  refine ⟨fun b hb hphase => ⟨fun hperiod hticks => ?_, fun hticks => ?_, fun value => ⟨fun hclosed => ?_, fun hopen hnumber => ?_⟩⟩,
    exec_leaseExpiry_of_not_attached⟩
  · have htick := tickLease_of_last hb hphase hperiod hticks
    exact ⟨by rw [exec_leaseExpiry_of_attached hb, if_pos hticks, htick], htick⟩
  · rw [exec_leaseExpiry_of_attached hb, if_neg hticks]
  · rw [exec_renewal, takeRenewal_of_closed hb hclosed]
  · have hrenews : b.lease.phase = .fresh ∨ b.lease.phase = .opened := by
      cases hlease : b.lease.phase <;> simp_all
    rw [exec_renewal, takeRenewal_of_unexpected hb hrenews hnumber]

/-! ## Stall timers -/

theorem exec_stallTimerExpiry_of_due {s : State} {p : PortId} {b : Binding} {st : Stall}
    (h : s.ports[p].state = .stalled b st) (htimer : st.timer = some 1) :
    exec (.stallTimerExpiry p) s = .next (s.expireTimer p) := by
  show execStallTimerExpiry p s = _
  unfold execStallTimerExpiry State.port
  rw [h]
  dsimp only
  rw [if_pos htimer, tickTimer_of_expires h htimer]

theorem exec_stallTimerExpiry_of_not_due {s : State} {p : PortId}
    (h : ∀ b st, s.ports[p].state = .stalled b st → st.timer ≠ some 1) : exec (.stallTimerExpiry p) s = .next s := by
  show execStallTimerExpiry p s = _
  unfold execStallTimerExpiry State.port
  cases hstate : s.ports[p].state with
  | stalled b st => exact if_neg (h b st hstate)
  | detached | attached | fenced => rfl

/-- Settles O32: the row and the part of the tick are the same expiry. -/
theorem stallTimerExpires : Obligations.StallTimerExpires := by
  refine fun s p => ⟨fun b st a t hst htimer ha ht => ?_, exec_stallTimerExpiry_of_not_due⟩
  have hexpired : s.expireTimer p = t := by
    rw [ht]
    unfold State.expireTimer
    rw [endStall_of_stalled _ hst ha]
    rfl
  exact ⟨by rw [exec_stallTimerExpiry_of_due hst htimer, hexpired], (tickTimer_of_expires hst htimer).trans hexpired⟩

end Sys2Proof.Machine
end

section
/-! Writes through the control aperture: O35 to O37. -/

namespace Sys2Proof.Machine

section Writes
variable {s : State} {p : PortId} {r : PortRec} {value : Word}

theorem post_of_room (h : r.outstanding < 4) :
    r.post = { r with commands := r.commands ++ [r.staging], outstanding := r.outstanding + 1 } := if_pos h

theorem post_of_full (h : 4 ≤ r.outstanding) : r.post = { r with postRefused := true } := if_neg (Nat.not_lt.2 h)

theorem pop_of_nil (h : r.completions = []) : r.pop = r := by
  unfold PortRec.pop
  rw [h]

theorem pop_of_cons {c : Completion} {rest : List Completion} (h : r.completions = c :: rest) :
    r.pop = { r with completions := rest, outstanding := r.outstanding - 1 } := by
  unfold PortRec.pop
  rw [h]

/-- R181: a 1 clears the flag in its place. -/
theorem getLsbD_writeFlags {i : Nat} (hi : i < 6) :
    (r.writeFlags value).flags.getLsbD i = (r.flags.getLsbD i && !value.getLsbD i) := by
  simp [PortRec.writeFlags, hi]

theorem getLsbD_writeEnables {i : Nat} (hi : i < 6) : (r.writeEnables value).enables.getLsbD i = value.getLsbD i := by
  simp [PortRec.writeEnables, hi]

/-- R182: the interrupt line is active exactly while a flag meets its enable. -/
theorem interrupt_iff (r : PortRec) :
    r.interrupt = true ↔ ∃ i < 6, r.flags.getLsbD i = true ∧ r.enables.getLsbD i = true := by
  unfold PortRec.interrupt
  rw [bne_iff_ne, Ne, ← not_iff_not, not_not]
  constructor
  · rintro hzero ⟨i, hi, hboth⟩
    have hbit := congrArg (BitVec.getLsbD · i) hzero
    simp [BitVec.getLsbD_and, hboth] at hbit
  · refine fun hnone => BitVec.eq_of_getLsbD_eq fun i hi => ?_
    rw [BitVec.getLsbD_and, BitVec.getLsbD_zero]
    exact Bool.eq_false_iff.2 fun hboth => hnone ⟨i, hi, by simpa using hboth⟩

/-- A whole write at the word `offset` does what `State.apertureWrite` says of that word. -/
theorem exec_apertureWrite_whole (addr : Nat) :
    exec (.apertureWrite p addr true value) s = .next (s.apertureWrite p addr true value) := rfl

theorem exec_apertureWrite_stage {addr : Nat} (i : Fin 4) (h : addr % 64 = 4 * i.val) :
    exec (.apertureWrite p addr true value) s = .next (s.modifyPort p (·.stage i value)) := by
  rw [exec_apertureWrite_whole]
  unfold State.apertureWrite
  rw [h]
  fin_cases i <;> rfl

/-- R186: the words that a write ignores, and the addresses between the words. -/
theorem exec_apertureWrite_of_ignored {addr : Nat}
    (h : addr % 4 ≠ 0 ∨ addr % 64 = 0x1C ∨ addr % 64 = 0x2C ∨ 0x30 ≤ addr % 64) :
    exec (.apertureWrite p addr true value) s = .next s := by
  rw [exec_apertureWrite_whole]
  unfold State.apertureWrite
  rw [if_pos rfl]
  split
  case h_11 => rfl
  all_goals omega

end Writes

/-- Settles O35: a post below four records and at four, a pop with a record and without. -/
theorem postAndPop : Obligations.PostAndPop := by
  refine fun s p value => ⟨fun h => ?_, fun h => ?_, fun h => ?_, fun c rest h => ?_⟩
  · exact congrArg Host.Outcome.next (modifyPort_eq (post_of_room h))
  · exact congrArg Host.Outcome.next (modifyPort_eq (post_of_full h))
  · refine congrArg Host.Outcome.next ((modifyPort_eq (f := (·.pop)) (pop_of_nil h)).trans ?_)
    simp
  · exact congrArg Host.Outcome.next (modifyPort_eq (pop_of_cons h))

/-- Settles O36: the three words bit by bit, and the line. -/
theorem flagsEnablesAndIndications : Obligations.FlagsEnablesAndIndications := by
  intro s p value
  exact ⟨⟨(s.ports[p].writeFlags value).flags, fun i hi => getLsbD_writeFlags hi, rfl⟩,
    ⟨(s.ports[p].writeEnables value).enables, fun i hi => getLsbD_writeEnables hi, rfl⟩, rfl, interrupt_iff _⟩

/-- Settles O37: the words by their offsets. -/
theorem apertureWriteActsByOffset : Obligations.ApertureWriteActsByOffset := by
  intro s p addr value
  refine ⟨rfl, fun h => exec_apertureWrite_of_ignored (.inl h), fun i h => exec_apertureWrite_stage i h, ?_, ?_, ?_, ?_, ?_, ?_,
    fun h => exec_apertureWrite_of_ignored (.inr h)⟩
  all_goals
    intro h
    rw [exec_apertureWrite_whole]
    unfold State.apertureWrite
    rw [h]
    rfl

end Sys2Proof.Machine
end

section
/-! What the control aperture reads: O38 and O39. -/

namespace Sys2Proof.Machine

/-! ## Fields of a word -/

theorem getLsbD_bitField (lo i : Nat) (b : Bool) :
    (bitField lo b).getLsbD i = (decide (i < 32) && decide (i = lo) && b) := by
  rw [bitField, getLsbD_field]
  by_cases h : i = lo
  · subst h
    cases b <;> simp
  · have hplace : (decide (lo ≤ i) && decide (i - lo < 1)) = false := by simp; omega
    rw [Bool.and_assoc (decide (i < 32)), hplace]
    simp [h]

theorem getElem_field (lo width v i : Nat) (hi : i < 32) :
    (field lo width v)[i] = (decide (lo ≤ i) && decide (i - lo < width) && v.testBit (i - lo)) := by
  rw [← BitVec.getLsbD_eq_getElem, getLsbD_field, decide_eq_true hi, Bool.true_and]

theorem getElem_bitField (lo i : Nat) (hi : i < 32) (b : Bool) : (bitField lo b)[i] = (decide (i = lo) && b) := by
  rw [← BitVec.getLsbD_eq_getElem, getLsbD_bitField, decide_eq_true hi, Bool.true_and]

/-- What a field puts at its own place. -/
theorem extractLsb'_field_self {lo width len : Nat} (v : Nat) (hword : lo + len ≤ 32) :
    (field lo width v).extractLsb' lo len = BitVec.ofNat len (v % 2 ^ width) := by
  refine BitVec.eq_of_getLsbD_eq fun i hi => ?_
  rw [BitVec.getLsbD_extractLsb', getLsbD_field, BitVec.getLsbD_ofNat, Nat.testBit_mod_two_pow, Nat.add_sub_cancel_left]
  have hplace : lo + i < 32 := by omega
  simp [hi, hplace]

/-- What a field puts elsewhere: nothing. -/
theorem extractLsb'_field_of_disjoint {lo width start len : Nat} (v : Nat) (h : lo + width ≤ start ∨ start + len ≤ lo) :
    (field lo width v).extractLsb' start len = 0#len := by
  refine BitVec.eq_of_getLsbD_eq fun i hi => ?_
  rw [BitVec.getLsbD_extractLsb', getLsbD_field, BitVec.getLsbD_zero]
  have hplace : (decide (lo ≤ start + i) && decide (start + i - lo < width)) = false := by simp; omega
  rw [Bool.and_assoc (decide (start + i < 32)), hplace]
  simp

theorem extractLsb'_or_field_of_disjoint {lo width start len : Nat} (w : Word) (v : Nat)
    (h : lo + width ≤ start ∨ start + len ≤ lo) :
    (w ||| field lo width v).extractLsb' start len = w.extractLsb' start len := by
  rw [BitVec.extractLsb'_or, extractLsb'_field_of_disjoint v h, BitVec.or_zero]

theorem extractLsb'_field_or_of_disjoint {lo width start len : Nat} (w : Word) (v : Nat)
    (h : lo + width ≤ start ∨ start + len ≤ lo) :
    (field lo width v ||| w).extractLsb' start len = w.extractLsb' start len := by
  rw [BitVec.or_comm, extractLsb'_or_field_of_disjoint w v h]

theorem ofNat_bool (b : Bool) : BitVec.ofNat 1 (b.toNat % 2) = BitVec.ofBool b := by cases b <;> rfl

/-! ## The words below the completion window -/

section Reads
variable {s : State} {p : PortId} {addr : Nat}

theorem apertureRead_stage (i : Fin 4) (h : addr % 64 = 4 * i.val) : s.apertureRead p addr true = s.ports[p].staging[i] := by
  unfold State.apertureRead
  rw [h]
  fin_cases i <;> rfl

theorem apertureRead_of_none (h : addr % 4 ≠ 0 ∨ addr % 64 = 0x10 ∨ addr % 64 = 0x14 ∨ addr % 64 = 0x18 ∨ addr % 64 = 0x2C) :
    s.apertureRead p addr true = 0 := by
  unfold State.apertureRead
  rw [if_pos rfl]
  split
  case h_13 => rfl
  all_goals omega

theorem apertureRead_leaseStatus (h : addr % 64 = 0x1C) : s.apertureRead p addr true = s.ports[p].leaseStatusWord := by
  unfold State.apertureRead
  rw [h]
  rfl

theorem apertureRead_apertureStatus (h : addr % 64 = 0x20) :
    s.apertureRead p addr true = s.ports[p].apertureStatusWord (s.rights.role p) := by
  unfold State.apertureRead
  rw [h]
  rfl

theorem apertureRead_window (i : Fin 4) (h : addr % 64 = 0x30 + 4 * i.val) :
    s.apertureRead p addr true = s.ports[p].window[i] := by
  unfold State.apertureRead
  rw [h]
  fin_cases i <;> rfl

theorem apertureRead_flags (h : addr % 64 = 0x24) : s.apertureRead p addr true = 0#26 ++ s.ports[p].flags := by
  unfold State.apertureRead
  rw [h]
  exact BitVec.setWidth_eq_append (by decide)

theorem apertureRead_enables (h : addr % 64 = 0x28) : s.apertureRead p addr true = 0#26 ++ s.ports[p].enables := by
  unfold State.apertureRead
  rw [h]
  exact BitVec.setWidth_eq_append (by decide)

end Reads

theorem leaseStatusWord_of_unbound {r : PortRec} (h : r.state.binding? = none) :
    r.leaseStatusWord = bitField 12 r.renewIgnored := by
  unfold PortRec.leaseStatusWord
  rw [h]
  exact BitVec.or_zero

theorem leaseStatusWord_of_bound {r : PortRec} {b : Binding} (h : r.state.binding? = some b) :
    r.leaseStatusWord =
      bitField 12 r.renewIgnored ||| (field 0 3 b.lease.phase.code ||| bitField 3 b.lease.warned |||
        field 4 8 b.lease.expected.toNat ||| field 16 16 b.lease.remaining) := by
  unfold PortRec.leaseStatusWord
  rw [h]

/-- R187: the lease status word outside the fields of a running lease. -/
theorem leaseStatusWord_indication (r : PortRec) :
    r.leaseStatusWord.getLsbD 12 = r.renewIgnored ∧ r.leaseStatusWord.extractLsb' 13 3 = 0 := by
  cases h : r.state.binding? with
  | none =>
    rw [leaseStatusWord_of_unbound h]
    exact ⟨by simp [getElem_bitField], extractLsb'_field_of_disjoint _ (by decide)⟩
  | some b =>
    rw [leaseStatusWord_of_bound h]
    exact ⟨by simp [getElem_bitField, getElem_field],
      by simp [BitVec.extractLsb'_or, bitField, extractLsb'_field_of_disjoint]⟩

theorem leaseStatusWord_fields_of_unbound {r : PortRec} (h : r.state.binding? = none) :
    r.leaseStatusWord.extractLsb' 0 12 = 0 ∧ r.leaseStatusWord.extractLsb' 16 16 = 0 := by
  rw [leaseStatusWord_of_unbound h]
  exact ⟨extractLsb'_field_of_disjoint _ (by decide), extractLsb'_field_of_disjoint _ (by decide)⟩

theorem leaseStatusWord_fields_of_bound {r : PortRec} {b : Binding} (h : r.state.binding? = some b) :
    r.leaseStatusWord.extractLsb' 0 3 =
        (match b.lease.phase with | .fresh => 1 | .closed => 2 | .opened => 3 | .frozen => 4) ∧
      r.leaseStatusWord.getLsbD 3 = b.lease.warned ∧ r.leaseStatusWord.extractLsb' 4 8 = b.lease.expected ∧
      r.leaseStatusWord.extractLsb' 16 16 = BitVec.ofNat 16 b.lease.remaining := by
  rw [leaseStatusWord_of_bound h]
  refine ⟨?_, by simp [getElem_bitField, getElem_field], ?_, ?_⟩
  all_goals simp [BitVec.extractLsb'_or, bitField, extractLsb'_field_of_disjoint, extractLsb'_field_self]
  · cases b.lease.phase <;> rfl
  · exact BitVec.eq_of_toNat_eq (by simpa using b.lease.expected.isLt)
  · exact BitVec.eq_of_toNat_eq (by simp)

/-- R187: the fields of the aperture status word. -/
theorem apertureStatusWord_fields (r : PortRec) (role : Role) :
    (r.apertureStatusWord role).extractLsb' 0 4 = BitVec.ofNat 4 (r.outstanding % 8) ∧
      (r.apertureStatusWord role).extractLsb' 4 4 = BitVec.ofNat 4 (r.completions.length % 8) ∧
      (r.apertureStatusWord role).extractLsb' 8 2 =
        (match r.state with | .detached => 0 | .attached _ => 1 | .stalled _ _ => 2 | .fenced => 3) ∧
      (r.apertureStatusWord role).extractLsb' 10 6 =
        (match role with | .none => 0 | .supervisor => 1 | .standby => 2 | .offered => 3 | .standbyOffered => 4) ∧
      (r.apertureStatusWord role).getLsbD 16 = r.postRefused ∧ (r.apertureStatusWord role).getLsbD 17 = r.renewIgnored ∧
      (r.apertureStatusWord role).extractLsb' 18 14 = 0 := by
  unfold PortRec.apertureStatusWord
  refine ⟨?_, ?_, ?_, ?_, by simp [getElem_bitField, getElem_field],
    by simp [getElem_bitField, getElem_field], ?_⟩
  all_goals simp [BitVec.extractLsb'_or, bitField, extractLsb'_field_of_disjoint, extractLsb'_field_self]
  · cases r.state <;> rfl
  · cases role <;> rfl

/-- Settles O38, word by word. -/
theorem apertureWordsRead : Obligations.ApertureWordsRead := by
  refine fun s p addr => ⟨rfl, apertureRead_of_none, apertureRead_stage, fun h => ?_, fun h => ?_, apertureRead_flags,
    apertureRead_enables⟩
  · rw [apertureRead_leaseStatus h]
    obtain ⟨hignored, hreserved⟩ := leaseStatusWord_indication s.ports[p]
    refine ⟨hignored, hreserved, ?_⟩
    cases hstate : s.ports[p].state with
    | detached | fenced => exact leaseStatusWord_fields_of_unbound (by rw [hstate]; rfl)
    | attached | stalled => exact leaseStatusWord_fields_of_bound (by rw [hstate]; rfl)
  · rw [apertureRead_apertureStatus h]
    exact apertureStatusWord_fields s.ports[p] (s.rights.role p)

end Sys2Proof.Machine
end

section
/-! What the completion window reads: O39. -/

namespace Sys2Proof.Machine

/-! ## Words put together from fields -/

/-- The bits `x` from bit `lo` of a word on. -/
@[irreducible] def placed {n : Nat} (lo : Nat) (x : BitVec n) : Word := x.setWidth 32 <<< lo

theorem placed_zero_left (w : Word) : placed 0 w = w := by
  rw [placed, BitVec.setWidth_eq]
  exact BitVec.shiftLeft_zero w

theorem field_zero_left (width v : Nat) : field 0 width v = BitVec.ofNat 32 (v % 2 ^ width) :=
  BitVec.shiftLeft_zero ..

theorem placed_zero_right (lo n : Nat) : placed lo 0#n = 0#32 := by simp [placed]

theorem placed_append {n m : Nat} (lo : Nat) (x : BitVec n) (y : BitVec m) :
    placed lo (x ++ y) = placed (lo + m) x ||| placed lo y := by
  simp only [placed]
  rw [BitVec.setWidth_append_eq_shiftLeft_setWidth_or, BitVec.shiftLeft_or_distrib, ← BitVec.shiftLeft_add,
    Nat.add_comm m lo]

theorem field_eq_placed (lo width v : Nat) : field lo width v = placed lo (BitVec.ofNat width v) := by
  have hword : BitVec.ofNat 32 (v % 2 ^ width) = (BitVec.ofNat width v).setWidth 32 := BitVec.eq_of_toNat_eq (by simp)
  rw [field, placed, hword]

theorem bitField_eq_placed (lo : Nat) (b : Bool) : bitField lo b = placed lo (BitVec.ofBool b) := by
  rw [bitField, field_eq_placed, ← ofNat_bool]
  cases b <;> rfl

section Words
variable {c : Completion}

theorem word0_eq {status : BitVec 4} (h : status = BitVec.ofNat 4 c.status.code) :
    1#1 ++ 0#10 ++ BitVec.ofBool c.result.isSome ++ status ++ c.code ++ c.tag = c.word0 := by
  subst h
  refine (placed_zero_left _).symm.trans ?_
  repeat rw [placed_append]
  simp only [Completion.word0, field_eq_placed, bitField_eq_placed, BitVec.ofBool_true, BitVec.ofNat_eq_ofNat,
    placed_zero_right, BitVec.ofNat_toNat, BitVec.setWidth_eq, BitVec.or_zero, Nat.reduceAdd]
  ac_rfl

theorem pageWord1_eq {x : PageReport} {staged live : BitVec 2} (hstaged : staged = BitVec.ofNat 2 x.staged.rights.code)
    (hlive : live = BitVec.ofNat 2 x.live.rights.code) :
    0#2 ++ staged ++ x.staged.frame ++ 0#2 ++ live ++ x.live.frame = x.live.fields 0 ||| x.staged.fields 16 := by
  subst hstaged hlive
  refine (placed_zero_left _).symm.trans ?_
  repeat rw [placed_append]
  simp only [Entry.fields, field_eq_placed, BitVec.ofNat_toNat, BitVec.setWidth_eq, Nat.reduceAdd, placed_zero_right,
    BitVec.or_zero, BitVec.zero_or]
  ac_rfl

theorem pageWord3_eq {x : PageReport} :
    0#18 ++ BitVec.ofNat 6 x.inFlight ++ BitVec.ofNat 3 x.binders ++ BitVec.ofBool x.running ++ BitVec.ofNat 4 x.jobs =
      field 0 4 x.jobs ||| bitField 4 x.running ||| field 5 3 x.binders ||| field 8 6 x.inFlight := by
  refine (placed_zero_left _).symm.trans ?_
  repeat rw [placed_append]
  simp only [bitField_eq_placed, field_eq_placed, Nat.reduceAdd, placed_zero_right, BitVec.zero_or]
  ac_rfl

theorem accessWord1_eq {f : FaultRecord} {kind : FaultKind} {slot : SlotId} {page : Page} {access : AccessKind} {tag : Byte}
    (h : f.body = .access kind slot page access tag) :
    1#1 ++ 0#3 ++ tag ++ BitVec.ofNat 3 f.port.val ++ 0#1 ++ f.seq = f.words.1 := by
  refine (placed_zero_left _).symm.trans ?_
  repeat rw [placed_append]
  simp only [FaultRecord.words, h, FaultBody.isAccess, FaultBody.tagNumber, Bool.not_true, field_eq_placed,
    bitField_eq_placed, BitVec.ofBool_true, BitVec.ofNat_eq_ofNat, BitVec.ofBool_false, placed_zero_right, BitVec.ofNat_toNat, BitVec.setWidth_eq,
    BitVec.or_zero, Nat.reduceAdd]
  ac_rfl

theorem accessWord3_eq {kind : FaultKind} {slot : SlotId} {page : Page} {access : AccessKind} {tag : Byte}
    {accessField : BitVec 1} {kindField : BitVec 15} (haccess : accessField = BitVec.ofNat 1 (accessKindCode access))
    (hkind : kindField =
      BitVec.ofNat 2 kind.code ++ BitVec.ofBool kind.frame.isSome ++
        BitVec.ofNat 12 ((kind.frame.map (·.toNat)).getD 0)) :
    0#4 ++ BitVec.ofNat 8 page.val ++ BitVec.ofNat 4 slot.val ++ accessField ++ kindField =
      (FaultBody.access kind slot page access tag).word3 := by
  subst haccess hkind
  refine (placed_zero_left _).symm.trans ?_
  repeat rw [placed_append]
  simp only [FaultBody.word3, field_eq_placed, bitField_eq_placed, placed_zero_right, BitVec.zero_or, Nat.reduceAdd]
  ac_rfl

theorem leaseWord1_eq {f : FaultRecord} {kind : LeaseKind} {loss : SupervisorLoss} (h : f.body = .lease kind loss) :
    1#1 ++ 0#11 ++ BitVec.ofNat 3 f.port.val ++ 1#1 ++ f.seq = f.words.1 := by
  refine (placed_zero_left _).symm.trans ?_
  repeat rw [placed_append]
  simp only [FaultRecord.words, h, FaultBody.isAccess, FaultBody.tagNumber, Bool.not_false, field_eq_placed,
    bitField_eq_placed, BitVec.ofBool_true, BitVec.ofNat_eq_ofNat, placed_zero_right, BitVec.ofNat_toNat, BitVec.setWidth_eq,
    BitVec.or_zero, Nat.reduceAdd]
  ac_rfl

/-- The loss fields of a LEASE record: its flag, whether a successor is named, and the successor. -/
def SupervisorLoss.field : SupervisorLoss → BitVec 5
  | .kept => 0#5
  | .lost none => 0#3 ++ 0#1 ++ 1#1
  | .lost (some q) => BitVec.ofNat 3 q.val ++ 1#1 ++ 1#1

theorem leaseWord3_eq {kind : LeaseKind} {loss : SupervisorLoss} {lossField : BitVec 5}
    {kindField : BitVec 2} (hloss : lossField = loss.field) (hkind : kindField = BitVec.ofNat 2 kind.code) :
    0#25 ++ lossField ++ kindField = (FaultBody.lease kind loss).word3 := by
  subst hloss hkind
  refine (placed_zero_left _).symm.trans ?_
  rw [placed_append, placed_append]
  unfold FaultBody.word3 SupervisorLoss.field
  split
  · simp only [field_eq_placed, placed_zero_right, BitVec.zero_or]
    exact (BitVec.or_zero).symm
  · rw [placed_append, placed_append]
    simp only [field_eq_placed, bitField_eq_placed, BitVec.ofBool_true, BitVec.ofNat_eq_ofNat, placed_zero_right, BitVec.zero_or, Nat.reduceAdd]
    ac_rfl
  · rw [placed_append, placed_append]
    simp only [field_eq_placed, bitField_eq_placed, BitVec.ofBool_true, BitVec.ofNat_eq_ofNat, placed_zero_right, BitVec.zero_or, Nat.reduceAdd]
    ac_rfl

/-- R190: the fields of a kind, the frame last. -/
def FaultKind.field : FaultKind → BitVec 15
  | .noEntry => 0#2 ++ 0#1 ++ 0#12
  | .writeDenied frame => 1#2 ++ 1#1 ++ frame
  | .frameRange frame => 2#2 ++ 1#1 ++ frame

theorem FaultKind.field_eq (kind : FaultKind) :
    kind.field =
      BitVec.ofNat 2 kind.code ++ BitVec.ofBool kind.frame.isSome ++ BitVec.ofNat 12 ((kind.frame.map (·.toNat)).getD 0) := by
  cases kind with
  | noEntry => rfl
  | writeDenied frame | frameRange frame =>
    simp only [FaultKind.frame, Option.map_some, Option.getD_some, BitVec.ofNat_toNat, BitVec.setWidth_eq]
    rfl

theorem accessWords_eq {f : FaultRecord} {kind : FaultKind} {slot : SlotId} {page : Page} {access : AccessKind} {tag : Byte}
    {accessField : BitVec 1} {kindField : BitVec 15} (h : f.body = .access kind slot page access tag)
    (haccess : accessField = BitVec.ofNat 1 (accessKindCode access)) (hkind : kindField = kind.field) :
    f.words =
      (1#1 ++ 0#3 ++ tag ++ BitVec.ofNat 3 f.port.val ++ 0#1 ++ f.seq, f.stamp,
        0#4 ++ BitVec.ofNat 8 page.val ++ BitVec.ofNat 4 slot.val ++ accessField ++ kindField) :=
  Prod.ext (accessWord1_eq h).symm
    (Prod.ext rfl ((congrArg FaultBody.word3 h).trans (accessWord3_eq haccess (hkind.trans kind.field_eq)).symm))

theorem leaseWords_eq {f : FaultRecord} {kind : LeaseKind} {loss : SupervisorLoss} {lossField : BitVec 5}
    {kindField : BitVec 2} (h : f.body = .lease kind loss) (hloss : lossField = loss.field)
    (hkind : kindField = BitVec.ofNat 2 kind.code) :
    f.words =
      (1#1 ++ 0#11 ++ BitVec.ofNat 3 f.port.val ++ 1#1 ++ f.seq, f.stamp, 0#25 ++ lossField ++ kindField) :=
  Prod.ext (leaseWord1_eq h).symm (Prod.ext rfl ((congrArg FaultBody.word3 h).trans (leaseWord3_eq hloss hkind).symm))

end Words

/-! ## The condition word -/

/-- A word is its fields. -/
theorem word_ext {v w : Word} (h0 : v.extractLsb' 0 2 = w.extractLsb' 0 2) (h2 : v.getLsbD 2 = w.getLsbD 2)
    (h3 : v.extractLsb' 3 3 = w.extractLsb' 3 3) (h6 : v.extractLsb' 6 8 = w.extractLsb' 6 8)
    (h14 : ∀ i < 6, v.getLsbD (14 + i) = w.getLsbD (14 + i)) (h20 : v.extractLsb' 20 12 = w.extractLsb' 20 12) : v = w := by
  have hbit : ∀ {start len : Nat}, v.extractLsb' start len = w.extractLsb' start len →
      ∀ i, start ≤ i → i < start + len → v.getLsbD i = w.getLsbD i := by
    intro start len h i hstart hlen
    have hplace : i - start < len := by omega
    have := congrArg (BitVec.getLsbD · (i - start)) h
    simpa [BitVec.getLsbD_extractLsb', hplace, Nat.add_sub_cancel' hstart] using this
  refine BitVec.eq_of_getLsbD_eq fun i hi => ?_
  have hplaces : i < 2 ∨ i = 2 ∨ 3 ≤ i ∧ i < 6 ∨ 6 ≤ i ∧ i < 14 ∨ 14 ≤ i ∧ i < 20 ∨ 20 ≤ i := by omega
  obtain h | rfl | ⟨hle, hlt⟩ | ⟨hle, hlt⟩ | ⟨hle, hlt⟩ | hle := hplaces
  · exact hbit h0 i (Nat.zero_le i) (by omega)
  · exact h2
  · exact hbit h3 i hle hlt
  · exact hbit h6 i hle hlt
  · have := h14 (i - 14) (by omega)
    rwa [Nat.add_sub_cancel' hle] at this
  · exact hbit h20 i hle (by omega)

/-- R189: bit 14 + n for Pn. -/
theorem getLsbD_waitingField (waiting : List PortId) (i : Nat) :
    (waitingField waiting).getLsbD i = decide (∃ q ∈ waiting, i = 14 + q.val) := by
  have hfold : ∀ w : Word, (waiting.foldl (fun w p => w ||| bitField (14 + p.val) true) w).getLsbD i =
      (w.getLsbD i || decide (∃ q ∈ waiting, i = 14 + q.val)) := by
    induction waiting with
    | nil => simp
    | cons q rest ih =>
      intro w
      have hword : 14 + q.val < 32 := by omega
      rw [List.foldl_cons, ih, BitVec.getLsbD_or, getLsbD_bitField]
      by_cases h : i = 14 + q.val
      · simp [h, hword]
      · simp [h]
  rw [waitingField, hfold]
  simp

theorem extractLsb'_waitingField {start len : Nat} (waiting : List PortId) (h : start + len ≤ 14 ∨ 20 ≤ start) :
    (waitingField waiting).extractLsb' start len = 0#len := by
  refine BitVec.eq_of_getLsbD_eq fun i hi => ?_
  have hnone : ¬ ∃ q ∈ waiting, start + i = 14 + q.val := by
    rintro ⟨q, _, hq⟩
    omega
  simp [BitVec.getLsbD_extractLsb', getLsbD_waitingField, hnone]

theorem extractLsb'_field_same {lo width : Nat} (v : Nat) (h : lo + width ≤ 32) :
    (field lo width v).extractLsb' lo width = BitVec.ofNat width v :=
  (extractLsb'_field_self v h).trans (BitVec.eq_of_toNat_eq (by simp))

theorem extractLsb'_field_toNat {lo n : Nat} (x : BitVec n) (h : lo + n ≤ 32) :
    (field lo n x.toNat).extractLsb' lo n = x := by
  rw [extractLsb'_field_same _ h, BitVec.ofNat_toNat, BitVec.setWidth_eq]

section Condition
variable {c : PendingCommit} {w boundary : Word}

/-- R189: the word of a SEALED slot, whatever its boundary puts at bit 2 and at bits 14 to 19. -/
theorem eq_sealedWord (hcode : w.extractLsb' 0 2 = 2) (hport : w.extractLsb' 3 3 = BitVec.ofNat 3 c.issuer.port.val)
    (htag : w.extractLsb' 6 8 = c.issuer.tag) (hreserved : w.extractLsb' 20 12 = 0)
    (hmark : w.getLsbD 2 = boundary.getLsbD 2) (hwaiting : ∀ i < 6, w.getLsbD (14 + i) = boundary.getLsbD (14 + i))
    (h0 : boundary.extractLsb' 0 2 = 0#2) (h3 : boundary.extractLsb' 3 3 = 0#3) (h6 : boundary.extractLsb' 6 8 = 0#8)
    (h20 : boundary.extractLsb' 20 12 = 0#12) :
    w = field 0 2 2 ||| field 3 3 c.issuer.port.val ||| field 6 8 c.issuer.tag.toNat ||| boundary := by
  refine word_ext ?_ ?_ ?_ ?_ (fun i hi => ?_) ?_
  · rw [hcode]
    simp [BitVec.extractLsb'_or, extractLsb'_field_of_disjoint, extractLsb'_field_same, h0]
  · rw [hmark, BitVec.getLsbD_or]
    simp [getElem_field]
  · rw [hport]
    simp [BitVec.extractLsb'_or, extractLsb'_field_of_disjoint, extractLsb'_field_same, h3]
  · rw [htag]
    simp [BitVec.extractLsb'_or, extractLsb'_field_of_disjoint, extractLsb'_field_toNat, h6]
  · have htag : ¬ 14 + i - 6 < 8 := by omega
    have hport : ¬ 14 + i - 3 < 3 := by omega
    have hcode : ¬ 14 + i < 2 := by omega
    simp only [hwaiting i hi, BitVec.getLsbD_or, getLsbD_field, Nat.sub_zero, htag, hport, hcode, decide_false,
      Bool.and_false, Bool.false_and, Bool.false_or]
  · rw [hreserved]
    simp [BitVec.extractLsb'_or, extractLsb'_field_of_disjoint, h20]

theorem eq_conditionWord_of_drain (hb : c.boundary = .drain) (hcode : w.extractLsb' 0 2 = 2)
    (hport : w.extractLsb' 3 3 = BitVec.ofNat 3 c.issuer.port.val) (htag : w.extractLsb' 6 8 = c.issuer.tag)
    (hreserved : w.extractLsb' 20 12 = 0) (hmark : w.getLsbD 2 = false) (hwaiting : w.extractLsb' 14 6 = 0) :
    w = (Condition.sealed c).word := by
  unfold Condition.word
  dsimp only
  rw [hb]
  refine eq_sealedWord hcode hport htag hreserved hmark (fun i hi => ?_) rfl rfl rfl rfl
  have hbit := congrArg (BitVec.getLsbD · i) hwaiting
  rw [BitVec.getLsbD_extractLsb', decide_eq_true hi, Bool.true_and] at hbit
  rw [hbit]
  simp

theorem eq_conditionWord_of_mark {waiting : List PortId} (hb : c.boundary = .mark waiting) (hcode : w.extractLsb' 0 2 = 2)
    (hport : w.extractLsb' 3 3 = BitVec.ofNat 3 c.issuer.port.val) (htag : w.extractLsb' 6 8 = c.issuer.tag)
    (hreserved : w.extractLsb' 20 12 = 0) (hmark : w.getLsbD 2 = true)
    (hwaiting : ∀ q : PortId, w.getLsbD (14 + q.val) = decide (q ∈ waiting)) : w = (Condition.sealed c).word := by
  unfold Condition.word
  dsimp only
  rw [hb]
  have houtside : ∀ {start len : Nat}, start + len ≤ 2 ∨ 3 ≤ start ∧ start + len ≤ 14 ∨ 20 ≤ start →
      (bitField 2 true ||| waitingField waiting).extractLsb' start len = 0#len := fun {start len} h => by
    rw [BitVec.extractLsb'_or, bitField, extractLsb'_field_of_disjoint _ (by omega),
      extractLsb'_waitingField _ (by omega), BitVec.or_zero]
  refine eq_sealedWord hcode hport htag hreserved ?_ (fun i hi => ?_) (houtside (by decide)) (houtside (by decide))
    (houtside (by decide)) (houtside (by decide))
  · rw [hmark, BitVec.getLsbD_or, getLsbD_bitField]
    rfl
  · have hplace : ¬ 14 + i = 2 := by omega
    rw [hwaiting ⟨i, hi⟩, BitVec.getLsbD_or, getLsbD_bitField, getLsbD_waitingField]
    simp only [hplace, decide_false, Bool.and_false, Bool.false_and, Bool.false_or, decide_eq_decide]
    exact ⟨fun h => ⟨_, h, rfl⟩, fun ⟨q, hq, h⟩ => (Fin.ext (Nat.add_left_cancel h.symm) : q = ⟨i, hi⟩) ▸ hq⟩

end Condition

/-! ## The window -/

section Window
variable {s : State} {p : PortId} {r : PortRec} {c : Completion} {rest : List Completion}

theorem window_of_nil (h : r.completions = []) : r.window = #v[0, 0, 0, 0] := by
  unfold PortRec.window
  rw [h]

/-- The words of a completion that follow its first (R189). -/
def Completion.resultWords (c : Completion) : Word × Word × Word :=
  match c.result with
  | none => (0, 0, 0)
  | some x => x.words

theorem window_of_cons (h : r.completions = c :: rest) :
    r.window = #v[c.word0, c.resultWords.1, c.resultWords.2.1, c.resultWords.2.2] := by
  unfold PortRec.window Completion.resultWords
  rw [h]
  dsimp only
  cases c.result <;> rfl

end Window

/-- Settles O39: the first word, then the three of the result, shape by shape. -/
theorem completionWindowRead : Obligations.CompletionWindowRead := by
  intro s p a0 a1 a2 a3 h0 h1 h2 h3
  rw [apertureRead_window 0 h0, apertureRead_window 1 h1, apertureRead_window 2 h2, apertureRead_window 3 h3]
  refine ⟨fun hnone => ?_, fun c rest hcons => ?_⟩
  · rw [window_of_nil hnone]
    exact ⟨rfl, rfl, rfl, rfl⟩
  · rw [window_of_cons hcons]
    refine ⟨(word0_eq (by cases c.status <;> rfl)).symm, fun w1 w2 w3 hwords => ?_⟩
    suffices c.resultWords = (w1, w2, w3) by
      rw [this]
      exact ⟨rfl, rfl, rfl⟩
    unfold Completion.resultWords
    cases hresult : c.result with
    | none =>
      rw [hresult] at hwords
      obtain ⟨rfl, rfl, rfl⟩ := hwords
      rfl
    | some x =>
      rw [hresult] at hwords
      show x.words = (w1, w2, w3)
      cases x with
      | pagesDone n | abortedNumber n =>
        obtain ⟨rfl, rfl, rfl⟩ := hwords
        exact congrArg (·, 0, 0) (field_zero_left ..)
      | commit swapped =>
        obtain ⟨rfl, rfl, rfl⟩ := hwords
        cases swapped <;> rfl
      | action a =>
        obtain ⟨rfl, rfl, rfl⟩ := hwords
        cases a <;> rfl
      | page x =>
        obtain ⟨rfl, hcondition, rfl⟩ := hwords
        refine Prod.ext (pageWord1_eq ?_ ?_).symm (Prod.ext ?_ pageWord3_eq.symm)
        · cases x.staged.rights <;> rfl
        · cases x.live.rights <;> rfl
        · show x.condition.word = w2
          cases hx : x.condition with
          | clean =>
            rw [hx] at hcondition
            exact hcondition.symm
          | dirty =>
            rw [hx] at hcondition
            exact hcondition.symm
          | sealed d =>
            rw [hx] at hcondition
            obtain ⟨hcode, hport, htag, hreserved, hboundary⟩ := hcondition
            cases hb : d.boundary with
            | drain =>
              rw [hb] at hboundary
              exact (eq_conditionWord_of_drain hb hcode hport htag hreserved hboundary.1 hboundary.2).symm
            | mark waiting =>
              rw [hb] at hboundary
              exact (eq_conditionWord_of_mark hb hcode hport htag hreserved hboundary.1 hboundary.2).symm
      | fault f =>
        cases f with
        | none =>
          obtain ⟨rfl, rfl, rfl⟩ := hwords
          rfl
        | some f =>
          obtain ⟨rfl, hbody⟩ := hwords
          cases hf : f.body with
          | access kind slot page access tag =>
            rw [hf] at hbody
            obtain ⟨rfl, rfl⟩ := hbody
            refine accessWords_eq hf ?_ ?_
            · cases access <;> rfl
            · cases kind <;> rfl
          | lease kind loss =>
            rw [hf] at hbody
            obtain ⟨rfl, rfl⟩ := hbody
            refine leaseWords_eq hf ?_ ?_
            · rcases loss with _ | _ | q <;> rfl
            · cases kind <;> rfl

end Sys2Proof.Machine
end

section
/-! The taking of commands: O2, O40 and O41. -/

namespace Sys2Proof.Machine

/-! ## No command touches the queue of commands to come -/

section Pending
variable {s : State} {p : PortId} {t : Taken}

theorem take_pending {body : Taken → Command → State → Option State}
    (h : ∀ t c u v, body t c u = some v → v.pending = u.pending) : (s.take p body).pending = s.pending := by
  unfold State.take
  split
  · rfl
  · next r rest _ =>
    cases hbody : body { port := p, tag := r.tag, code := r.code } r.command (s.modifyPort p fun q => { q with commands := rest })
      with
    | none => rfl
    | some v =>
      have hv := h _ _ _ _ hbody
      exact hv

theorem supervisorOnly_pending {carryOut : State → State} (h : (carryOut s).pending = s.pending) :
    (s.supervisorOnly t carryOut).pending = s.pending := by
  unfold State.supervisorOnly
  split
  · exact h
  · simp

theorem endRunning_pending (status : Status) (done : Nat) : (s.endRunning status done).pending = s.pending := by
  unfold State.endRunning
  split <;> simp

theorem answerLoad_pending (outcome : MemOutcome) (data : List Byte) : (s.answerLoad outcome data).pending = s.pending := by
  unfold State.answerLoad State.pageDone State.descriptorWrite
  repeat' split
  all_goals simp [endRunning_pending]

theorem memoryAnswer_pending (x : MemAnswer) (first : List PortId) : (s.memoryAnswer x first).pending = s.pending := by
  unfold State.memoryAnswer State.answerEntry State.answerPort
  repeat' split
  all_goals simp [answerLoad_pending]

theorem tickLease_pending (p : PortId) : (s.tickLease p).pending = s.pending := by
  unfold State.tickLease
  repeat' split
  all_goals simp

theorem tickTimer_pending (p : PortId) : (s.tickTimer p).pending = s.pending := by
  unfold State.tickTimer State.expireTimer
  repeat' split
  all_goals simp

theorem tick_pending (order : List TickPart) : (order.foldl State.tickPart s).pending = s.pending := by
  induction order generalizing s with
  | nil => rfl
  | cons part order ih =>
    rw [List.foldl_cons, ih]
    cases part with
    | stamp => rfl
    | lease p => exact tickLease_pending p
    | timer p => exact tickTimer_pending p

theorem takeRenewal_pending (number : BitVec 8) : (s.takeRenewal p number).pending = s.pending := by
  unfold State.takeRenewal
  repeat' split
  all_goals simp

theorem apertureWrite_pending (addr : Nat) (whole : Bool) (value : Word) :
    (s.apertureWrite p addr whole value).pending = s.pending := by
  unfold State.apertureWrite
  repeat' split
  all_goals simp [takeRenewal_pending]

@[simp] theorem putEntry_pending (slot page : Byte) (frame : Frame) (code : BitVec 2) :
    (s.putEntry t slot page frame code).pending = s.pending := by
  unfold State.putEntry State.unlessBusy
  repeat' split
  all_goals simp

@[simp] theorem discard_pending (slot : Byte) : (s.discard t slot).pending = s.pending := by
  unfold State.discard State.unlessBusy
  repeat' split
  all_goals simp

@[simp] theorem clear_pending (slot : Byte) : (s.clear t slot).pending = s.pending := by
  unfold State.clear State.unlessBusy
  repeat' split
  all_goals simp

@[simp] theorem load_pending (slot first : Byte) (count : BitVec 9) (addr : BitVec 24) :
    (s.load t slot first count addr).pending = s.pending := by
  unfold State.load
  repeat' split
  all_goals simp

theorem completeAborted_pending (ended : List (Job × Nat)) : (s.completeAborted ended).pending = s.pending := by
  induction ended generalizing s with
  | nil => rfl
  | cons x ended ih =>
    unfold State.completeAborted
    rw [ih, State.completeJob_pending]

@[simp] theorem abortLoad_pending (slot : Byte) : (s.abortLoad t slot).pending = s.pending := by
  unfold State.abortLoad
  repeat' split
  all_goals simp [completeAborted_pending]

@[simp] theorem commit_pending (slot : Byte) (code : BitVec 2) (first : List PortId) :
    (s.commit t slot code first).pending = s.pending := by
  unfold State.commit
  repeat' split
  all_goals simp

@[simp] theorem cancelCommit_pending (slot : Byte) (first : List PortId) : (s.cancelCommit t slot first).pending = s.pending := by
  unfold State.cancelCommit
  repeat' split
  all_goals simp

@[simp] theorem bind_pending (port slot : Byte) : (s.bind t port slot).pending = s.pending := by
  unfold State.bind
  repeat' split
  all_goals simp

@[simp] theorem unbind_pending (port : Byte) : (s.unbind t port).pending = s.pending := by
  unfold State.unbind
  repeat' split
  all_goals simp

@[simp] theorem setLease_pending (port : Byte) (code : BitVec 2) (period : BitVec 16) :
    (s.setLease t port code period).pending = s.pending := by
  unfold State.setLease
  repeat' split
  all_goals simp

@[simp] theorem fence_pending (port : Byte) : (s.fence t port).pending = s.pending := by
  unfold State.fence
  repeat' split
  all_goals simp

@[simp] theorem unfence_pending (port : Byte) : (s.unfence t port).pending = s.pending := by
  unfold State.unfence
  repeat' split
  all_goals simp

theorem resolve_pending (seq : BitVec 16) (code : BitVec 2) (a : Action) {act : State → PortId → State}
    (h : ∀ q, (act s q).pending = s.pending) : (s.resolve t seq code a act).pending = s.pending := by
  unfold State.resolve
  repeat' split
  all_goals simp [h]

@[simp] theorem readFault_pending (k : Byte) : (s.readFault t k).pending = s.pending := by
  unfold State.readFault
  repeat' split
  all_goals simp

@[simp] theorem setStandby_pending (port : Byte) : (s.setStandby t port).pending = s.pending := by
  unfold State.setStandby
  repeat' split
  all_goals simp

@[simp] theorem handover_pending (port : Byte) : (s.handover t port).pending = s.pending := by
  unfold State.handover
  repeat' split
  all_goals simp

@[simp] theorem accept_pending : (s.accept t).pending = s.pending := by
  unfold State.accept
  repeat' split
  all_goals simp

@[simp] theorem claim_pending : (s.claim t).pending = s.pending := by
  unfold State.claim
  repeat' split
  all_goals simp

@[simp] theorem configure_pending (memsize : BitVec 13) (limit : BitVec 16) : (s.configure t memsize limit).pending = s.pending := by
  unfold State.configure
  repeat' split
  all_goals simp

@[simp] theorem sync_pending : (s.sync t).pending = s.pending := by
  unfold State.sync
  repeat' split
  all_goals simp

@[simp] theorem checkPage_pending (slot page : Byte) : (s.checkPage t slot page).pending = s.pending := by
  unfold State.checkPage
  repeat' split
  all_goals simp

end Pending

theorem exec_grant_pending (able : Bool) (s : State) : ∃ t, exec (.grant able) s = .next t ∧ t.pending = s.pending := by
  show ∃ t, execGrant able s = .next t ∧ t.pending = s.pending
  unfold execGrant
  split
  case isFalse => exact ⟨s, rfl, rfl⟩
  split
  case h_2 => exact ⟨s, rfl, rfl⟩
  split
  · refine ⟨_, rfl, ?_⟩
    unfold State.grantPort
    split <;> simp
  · refine ⟨_, rfl, ?_⟩
    unfold State.grantLoad
    repeat' split
    all_goals simp

theorem exec_deliverResponse_pending (p : PortId) (s : State) :
    ∃ t, exec (.deliverResponse p) s = .next t ∧ t.pending = s.pending := by
  show ∃ t, execDeliverResponse p s = .next t ∧ t.pending = s.pending
  unfold execDeliverResponse
  repeat' split
  all_goals exact ⟨_, rfl, rfl⟩

theorem exec_leaseExpiry_pending (p : PortId) (s : State) :
    ∃ t, exec (.leaseExpiry p) s = .next t ∧ t.pending = s.pending := by
  show ∃ t, execLeaseExpiry p s = .next t ∧ t.pending = s.pending
  unfold execLeaseExpiry
  repeat' split
  · exact ⟨_, rfl, tickLease_pending p⟩
  all_goals exact ⟨_, rfl, rfl⟩

theorem exec_stallTimerExpiry_pending (p : PortId) (s : State) :
    ∃ t, exec (.stallTimerExpiry p) s = .next t ∧ t.pending = s.pending := by
  show ∃ t, execStallTimerExpiry p s = .next t ∧ t.pending = s.pending
  unfold execStallTimerExpiry
  repeat' split
  · exact ⟨_, rfl, tickTimer_pending p⟩
  all_goals exact ⟨_, rfl, rfl⟩

theorem portReset_pending (p : PortId) (s : State) : ∃ t, exec (.portReset p) s = .next t ∧ t.pending = s.pending := by
  refine ⟨_, rfl, ?_⟩
  simp only [State.modifyPort_pending, State.endRoles_pending]
  unfold State.resetState
  split <;> simp

/-- Settles O2, command by command. -/
theorem everyCommandGoesOn : Obligations.EveryCommandGoesOn := by
  intro i s
  cases i
  case grant => exact exec_grant_pending ..
  case deliverResponse => exact exec_deliverResponse_pending ..
  case leaseExpiry => exact exec_leaseExpiry_pending ..
  case stallTimerExpiry => exact exec_stallTimerExpiry_pending ..
  case portReset => exact portReset_pending ..
  case accessRequest | post | pop | flagWordWrite | enableWordWrite | apertureStatusWrite | deviceReset | powerUp =>
    exact ⟨_, rfl, rfl⟩
  all_goals refine ⟨_, rfl, ?_⟩
  case translateHeadAccess => exact State.translateHead_pending ..
  case memoryAnswerAccess | memoryAnswerDescriptor => exact memoryAnswer_pending ..
  case tick => exact tick_pending ..
  case renewal => exact takeRenewal_pending ..
  case apertureWrite => exact apertureWrite_pending ..
  all_goals refine take_pending fun t c u v hbody => ?_
  case resolveRetry | resolveSkip | resolveFence =>
    split at hbody
    case h_2 => cases hbody
    split at hbody
    case isFalse => cases hbody
    cases hbody
    refine supervisorOnly_pending (resolve_pending _ _ _ fun q => ?_)
    simp [State.retry, State.skip]
  all_goals
    split at hbody
    case h_2 => cases hbody
    cases hbody
    simp [supervisorOnly_pending]

/-! ## Records that a row does not take, and records it refuses -/

section Rows
variable {s : State} {p : PortId} {r : CommandRecord} {c : Command} {rest : List CommandRecord} {i : Instr}
  {first : List PortId}

theorem actionCode_cases (code : BitVec 2) : code = 0 ∨ code = 1 ∨ code = 2 ∨ code = 3 := by
  revert code
  decide

/-- R147: the action codes, each with the row that takes it; the code 3 is taken by every row. -/
theorem mem_rows_resolve {seq : BitVec 16} {code : BitVec 2} :
    (takesAction .retry code = true → .resolveRetry p ∈ (Command.resolve seq code).rows p first) ∧
      (takesAction .skip code = true → .resolveSkip p ∈ (Command.resolve seq code).rows p first) ∧
      (takesAction .fence code = true → .resolveFence p ∈ (Command.resolve seq code).rows p first) := by
  obtain rfl | rfl | rfl | rfl := actionCode_cases code <;> simp [takesAction, actionOf, Command.rows]

theorem exec_of_other (h : s.Heads p r c rest) (hi : i ∈ takingRows p first) (hc : i ∉ c.rows p first) :
    exec i s = .next s := by
  simp only [takingRows, List.mem_cons, List.not_mem_nil, or_false] at hi
  rcases hi with rfl | rfl | rfl | rfl | rfl | rfl | rfl | rfl | rfl | rfl | rfl | rfl | rfl | rfl | rfl | rfl | rfl | rfl |
    rfl | rfl | rfl | rfl | rfl | rfl
  all_goals
    refine congrArg Host.Outcome.next (take_of_other h fun t u => ?_)
    split
    case h_2 => rfl
  any_goals exact absurd (List.mem_singleton_self _) hc
  · exact if_neg fun htakes => hc (mem_rows_resolve.1 htakes)
  · exact if_neg fun htakes => hc (mem_rows_resolve.2.1 htakes)
  · exact if_neg fun htakes => hc (mem_rows_resolve.2.2 htakes)

/-- R147: the rows that take a RESOLVE are those whose action its code does not exclude. -/
theorem resolve_row_cases {seq : BitVec 16} {code : BitVec 2} (hi : i ∈ (Command.resolve seq code).rows p first) :
    i = .resolveRetry p ∧ takesAction .retry code = true ∨ i = .resolveSkip p ∧ takesAction .skip code = true ∨
      i = .resolveFence p ∧ takesAction .fence code = true := by
  obtain rfl | rfl | rfl | rfl := actionCode_cases code <;> simpa [takesAction, actionOf, Command.rows] using hi

theorem exec_resolve_of_not_holder {seq : BitVec 16} {code : BitVec 2} (h : s.Heads p r (.resolve seq code) rest)
    (hp : s.rights.holder ≠ some p) (hi : i ∈ (Command.resolve seq code).rows p first) :
    exec i s = .next (s.completed p r rest .notSupervisor) := by
  obtain ⟨rfl, htakes⟩ | ⟨rfl, htakes⟩ | ⟨rfl, htakes⟩ := resolve_row_cases hi
  all_goals exact congrArg Host.Outcome.next (take_of_heads_of_not_holder h hp fun _ _ => if_pos htakes)

theorem exec_of_no_commands (h : s.ports[p].commands = []) (hi : i ∈ takingRows p first) : exec i s = .next s := by
  simp only [takingRows, List.mem_cons, List.not_mem_nil, or_false] at hi
  rcases hi with rfl | rfl | rfl | rfl | rfl | rfl | rfl | rfl | rfl | rfl | rfl | rfl | rfl | rfl | rfl | rfl | rfl | rfl |
    rfl | rfl | rfl | rfl | rfl | rfl
  all_goals exact congrArg Host.Outcome.next (take_of_empty h)

end Rows

/-- Settles O40: the rights check of the row that takes the record. -/
theorem withoutRightsRefused : Obligations.WithoutRightsRefused := by
  intro s p r c rest i first h hneeds hp hi
  cases c with
  | sync | checkPage | claim | accept | unknown => exact hneeds.elim
  | resolve seq code => exact exec_resolve_of_not_holder h hp hi
  | _ =>
    obtain rfl := List.mem_singleton.1 hi
    exact congrArg Host.Outcome.next (take_of_heads_of_not_holder h hp fun _ _ => rfl)

/-- Settles O41: a record of no command, and the rows that another record or none meets. -/
theorem unknownCodeRefused : Obligations.UnknownCodeRefused := by
  refine fun s p first => ⟨fun r c rest h => ⟨?_, fun i => exec_of_other h⟩, fun h i => exec_of_no_commands h⟩
  rintro rfl
  exact congrArg Host.Outcome.next (take_of_heads h _ rfl)

end Sys2Proof.Machine
end

section
/-! LOAD, COMMIT and CANCEL_COMMIT: O44, O46 and O47. -/

namespace Sys2Proof.Machine

/-- R188: a record of a command carries its code. -/
theorem command_unknown_or_code (r : CommandRecord) : r.command = .unknown ∨ r.command.code = r.code := by
  unfold CommandRecord.command
  split
  case h_22 => exact .inl rfl
  all_goals
    next hcode => exact .inr (BitVec.eq_of_toNat_eq hcode.symm)

theorem code_of_command {r : CommandRecord} {c : Command} (h : r.command = c) (hc : c ≠ .unknown) : r.code = c.code := by
  obtain hunknown | hcode := command_unknown_or_code r
  · exact absurd (h.symm.trans hunknown) hc
  · rw [← hcode, h]

section Rows
variable {s : State} {p : PortId} {r : CommandRecord} {rest : List CommandRecord} {slot : Byte}

theorem exec_load_of_heads {first : Byte} {count : BitVec 9} {addr : BitVec 24} (hp : s.rights.holder = some p)
    (h : s.Heads p r (.load slot first count addr) rest) :
    exec (.load p) s = .next ((s.taken p rest).load (r.takenAt p) slot first count addr) :=
  congrArg Host.Outcome.next <|
    take_of_heads_of_holder (carryOut := fun t u => u.load t slot first count addr) h hp fun _ _ => rfl

theorem exec_commit_of_heads {code : BitVec 2} (first : List PortId) (hp : s.rights.holder = some p)
    (h : s.Heads p r (.commit slot code) rest) :
    exec (.commit p first) s = .next ((s.taken p rest).commit (r.takenAt p) slot code first) :=
  congrArg Host.Outcome.next <|
    take_of_heads_of_holder (carryOut := fun t u => u.commit t slot code first) h hp fun _ _ => rfl

theorem exec_cancelCommit_of_heads (first : List PortId) (hp : s.rights.holder = some p)
    (h : s.Heads p r (.cancelCommit slot) rest) :
    exec (.cancelCommit p first) s = .next ((s.taken p rest).cancelCommit (r.takenAt p) slot first) :=
  congrArg Host.Outcome.next <|
    take_of_heads_of_holder (carryOut := fun t u => u.cancelCommit t slot first) h hp fun _ _ => rfl

end Rows

/-! ## LOAD -/

section Load
variable {s : State} {t : Taken} {slot first : Byte} {count : BitVec 9} {addr : BitVec 24} {n : SlotId} {page : Page}

theorem loadRange_iff {memsize : Nat} :
    loadRange memsize first.toNat count.toNat addr.toNat = true ↔ LoadInRange memsize first count addr := by
  unfold loadRange
  simp only [Bool.and_eq_true, decide_eq_true_iff, and_assoc]
  exact Iff.rfl

theorem load_of_outOfRange (h : 16 ≤ slot.toNat ∨ ¬ LoadInRange s.memsize first count addr) :
    s.load t slot first count addr = s.complete t .badArgument := by
  unfold State.load
  cases hn : slotOf slot with
  | none => rfl
  | some n =>
    obtain h | h := h
    · rw [slotOf_eq_none h] at hn
      cases hn
    · exact if_neg (mt loadRange_iff.1 h)

theorem load_of_inRange (hn : slot.toNat = n.val) (h : LoadInRange s.memsize first count addr) :
    s.load t slot first count addr =
      if s.slots[n].condition.isSealed then s.complete t .slotBusy
      else if 8 ≤ s.jobs.length then s.complete t .queueFull
      else { s with jobs := startHead (s.jobs ++ [acceptedJob t n first count addr]) } := by
  unfold State.load
  rw [slotOf_eq_some hn]
  exact if_pos (loadRange_iff.2 h)

theorem load_of_sealed (hn : slot.toNat = n.val) (h : LoadInRange s.memsize first count addr) (hsealed : s.SealedAt n) :
    s.load t slot first count addr = s.complete t .slotBusy := by
  rw [load_of_inRange hn h, if_pos ((isSealed_iff s n).2 hsealed)]

theorem load_of_full (hn : slot.toNat = n.val) (h : LoadInRange s.memsize first count addr) (hsealed : ¬ s.SealedAt n)
    (hfull : 8 ≤ s.jobs.length) : s.load t slot first count addr = s.complete t .queueFull := by
  rw [load_of_inRange hn h, if_neg (mt (isSealed_iff s n).1 hsealed), if_pos hfull]

theorem load_of_room (hn : slot.toNat = n.val) (h : LoadInRange s.memsize first count addr) (hsealed : ¬ s.SealedAt n)
    (hroom : s.jobs.length < 8) :
    s.load t slot first count addr = { s with jobs := startHead (s.jobs ++ [acceptedJob t n first count addr]) } := by
  rw [load_of_inRange hn h, if_neg (mt (isSealed_iff s n).1 hsealed), if_neg (Nat.not_le.2 hroom)]

theorem startHead_of_not_queued {j : Job} {rest : List Job} (h : j.state ≠ .queued) : startHead (j :: rest) = j :: rest :=
  startHead_of_isRunning (by simpa [Job.isRunning] using h)

end Load

/-- Settles O44: the tests in order, then the place the job takes. -/
theorem loadAcceptedOrRefused : Obligations.LoadAcceptedOrRefused := by
  intro s p r rest slot first count addr n page hp h
  rw [exec_load_of_heads hp h]
  refine ⟨fun hrange => ?_, fun hn hrange hsealed => ?_, fun hn hrange hsealed hfull => ?_,
    fun hn hpage hrange hsealed => ⟨fun hempty => ?_, fun j behind hruns hj hroom => ?_⟩⟩
  all_goals refine congrArg Host.Outcome.next ?_
  · exact load_of_outOfRange (by exact hrange)
  · exact load_of_sealed hn (by exact hrange) (by exact hsealed)
  · exact load_of_full hn (by exact hrange) (by exact hsealed) (by exact hfull)
  · refine (load_of_room hn (by exact hrange) (by exact hsealed) (by simp [hempty])).trans ?_
    simp [hempty, acceptedJob, startHead, pageOf_eq hpage, CommandRecord.takenAt]
  · refine (load_of_room hn (by exact hrange) (by exact hsealed) (by simp [hruns.1]; omega)).trans ?_
    rw [taken_jobs, hruns.1, List.cons_append, startHead_of_not_queued hj]
    simp [acceptedJob, pageOf_eq hpage, CommandRecord.takenAt]

/-! ## COMMIT -/

section Commit
variable {s : State} {t : Taken} {slot : Byte} {code : BitVec 2} {n : SlotId} {boundary : Boundary} {first : List PortId}

theorem boundaryOf_eq_none (h : code = 2 ∨ code = 3) : s.boundaryOf n code = none := by
  obtain rfl | rfl := h <;> rfl

/-- R85: the set that a MARK forms. -/
theorem boundaryOf_eq_some
    (h : code = 0 ∧ boundary = .drain ∨
      code = 1 ∧ boundary = .mark
        ((List.finRange 6).filter fun q => s.ports[q].state.isAttached && s.ports[q].state.boundSlot? = some n)) :
    s.boundaryOf n code = some boundary := by
  obtain ⟨rfl, rfl⟩ | ⟨rfl, rfl⟩ := h <;> rfl

theorem commit_of_outOfRange (h : 16 ≤ slot.toNat ∨ code = 2 ∨ code = 3) :
    s.commit t slot code first = s.complete t .badArgument := by
  unfold State.commit
  cases hn : slotOf slot with
  | none => rfl
  | some n =>
    obtain h | h := h
    · rw [slotOf_eq_none h] at hn
      cases hn
    · dsimp only
      rw [boundaryOf_eq_none h]

theorem commit_of_busy (hn : slot.toNat = n.val) (hb : s.boundaryOf n code = some boundary)
    (h : s.SealedAt n ∨ s.LoadHeldAt n) : s.commit t slot code first = s.complete t .slotBusy := by
  unfold State.commit
  rw [slotOf_eq_some hn]
  dsimp only
  rw [hb]
  dsimp only
  cases hc : (s.slot n).condition with
  | sealed c => rfl
  | clean | dirty =>
    obtain ⟨c, hsealed⟩ | hheld := h
    · rw [hc] at hsealed
      cases hsealed
    · exact if_pos ((loadHeld_iff s n).2 hheld)

theorem commit_of_clean (hn : slot.toNat = n.val) (hb : s.boundaryOf n code = some boundary) (hheld : ¬ s.LoadHeldAt n)
    (hc : s.slots[n].condition = .clean) : s.commit t slot code first = s.complete t .ok (some (.commit false)) := by
  unfold State.commit State.slot
  rw [slotOf_eq_some hn]
  dsimp only
  rw [hb]
  dsimp only
  rw [hc]
  exact if_neg (mt (loadHeld_iff s n).1 hheld)

theorem commit_of_dirty (hn : slot.toNat = n.val) (hb : s.boundaryOf n code = some boundary) (hheld : ¬ s.LoadHeldAt n)
    (hc : s.slots[n].condition = .dirty) :
    s.commit t slot code first =
      State.testBoundary (s.modifySlot n fun m => { m with condition := .sealed (newCommit t boundary) }) n first := by
  unfold State.commit State.slot
  rw [slotOf_eq_some hn]
  dsimp only
  rw [hb]
  dsimp only
  rw [hc]
  exact if_neg (mt (loadHeld_iff s n).1 hheld)

theorem imageSwapped_modifySlot (c : Condition) :
    (s.modifySlot n fun m => { m with condition := c }).imageSwapped n = s.imageSwapped n := by
  simp [State.imageSwapped, State.modifySlot]

/-- R89: the completion of a COMMIT that swaps within its own taking. -/
theorem commitCompleted_newCommit {r : CommandRecord} {p : PortId} (hcode : r.code = 0x06) (status : Status)
    (result : Option Result) :
    s.commitCompleted (newCommit (r.takenAt p) boundary) status result = s.joined p (r.completion status result) := by
  rw [CommandRecord.completion, hcode]
  rfl

/-- R82, R83: a DRAIN commit with nothing in flight swaps at once. -/
theorem testBoundary_newDrain (hflight : s.slots[n].inFlight = 0) :
    State.testBoundary (s.modifySlot n fun m => { m with condition := .sealed (newCommit t .drain) }) n first =
      ((s.imageSwapped n).released n first).commitCompleted (newCommit t .drain) .ok (some (.commit true)) := by
  rw [testBoundary_of_drain first (c := newCommit t .drain) (by simp [State.modifySlot]) rfl,
    if_pos (by simpa [State.modifySlot] using hflight), State.drainSwapped, imageSwapped_modifySlot]

/-- R82, R86: a MARK commit that waits for no port swaps at once. -/
theorem testBoundary_newMark :
    State.testBoundary (s.modifySlot n fun m => { m with condition := .sealed (newCommit t (.mark [])) }) n first =
      (s.imageSwapped n).commitCompleted (newCommit t (.mark [])) .ok (some (.commit true)) := by
  rw [testBoundary_of_mark first (c := newCommit t (.mark [])) (by simp [State.modifySlot]) rfl, if_pos rfl,
    State.markSwapped, imageSwapped_modifySlot]

theorem testBoundary_newWaits
    (h : boundary = .drain ∧ s.slots[n].inFlight ≠ 0 ∨ ∃ q others, boundary = .mark (q :: others)) :
    State.testBoundary (s.modifySlot n fun m => { m with condition := .sealed (newCommit t boundary) }) n first =
      s.modifySlot n fun m => { m with condition := .sealed (newCommit t boundary) } := by
  obtain ⟨rfl, hflight⟩ | ⟨q, others, rfl⟩ := h
  · rw [testBoundary_of_drain first (c := newCommit t .drain) (by simp [State.modifySlot]) rfl,
      if_neg (by simpa [State.modifySlot] using hflight)]
  · rw [testBoundary_of_mark first (c := newCommit t (.mark (q :: others))) (by simp [State.modifySlot]) rfl,
      if_neg (List.cons_ne_nil _ _)]

end Commit

/-- Settles O46: the tests in order, then the boundary a fresh seal meets. -/
theorem commitSealsOrRefuses : Obligations.CommitSealsOrRefuses := by
  intro s p r rest slot code n boundary first hp h
  rw [exec_commit_of_heads first hp h]
  have hcode : r.code = 0x06 := code_of_command h.2 nofun
  refine ⟨fun hrange => congrArg Host.Outcome.next (commit_of_outOfRange hrange), fun hn hb => ?_⟩
  have hboundary : (s.taken p rest).boundaryOf n code = some boundary := by
    refine boundaryOf_eq_some ?_
    simp only [taken_state]
    exact hb
  refine ⟨fun hbusy => ?_, fun hheld hclean => ?_, fun hheld hdirty => ?_⟩
  · exact congrArg Host.Outcome.next (commit_of_busy hn hboundary hbusy)
  · exact congrArg Host.Outcome.next (commit_of_clean hn hboundary hheld hclean)
  · rw [commit_of_dirty hn hboundary hheld hdirty]
    refine ⟨?_, ?_, fun hwaits => ?_⟩
    · rintro rfl hflight
      rw [testBoundary_newDrain (s := s.taken p rest) hflight, commitCompleted_newCommit hcode]
    · rintro rfl
      rw [testBoundary_newMark, commitCompleted_newCommit hcode]
    · rw [testBoundary_newWaits (s := s.taken p rest) hwaits]
      rfl

/-! ## CANCEL_COMMIT -/

section Cancel
variable {s : State} {t : Taken} {slot : Byte} {n : SlotId} {first : List PortId}

theorem cancelCommit_of_outOfRange (h : 16 ≤ slot.toNat) : s.cancelCommit t slot first = s.complete t .badArgument := by
  unfold State.cancelCommit
  rw [slotOf_eq_none h]

theorem cancelCommit_of_not_sealed (hn : slot.toNat = n.val) (h : ¬ s.SealedAt n) :
    s.cancelCommit t slot first = s.complete t .stale := by
  unfold State.cancelCommit
  rw [slotOf_eq_some hn]
  dsimp only
  cases hc : (s.slot n).condition with
  | sealed c => exact absurd ⟨c, hc⟩ h
  | clean | dirty => rfl

theorem cancelCommit_of_sealed {c : PendingCommit} (hn : slot.toNat = n.val) (hc : s.slots[n].condition = .sealed c) :
    s.cancelCommit t slot first = (s.unseal n c first).complete t .ok := by
  unfold State.cancelCommit State.slot
  rw [slotOf_eq_some hn]
  dsimp only
  rw [hc]

theorem unseal_of_drain {c : PendingCommit} (hb : c.boundary = .drain) :
    s.unseal n c first =
      State.commitCompleted
        (State.released { s with slots := s.slots.set n { s.slots[n] with condition := .dirty } } n first) c .cancelled none := by
  unfold State.unseal
  dsimp only
  rw [hb, released_eq]
  rfl

theorem unseal_of_mark {c : PendingCommit} {waiting : List PortId} (hb : c.boundary = .mark waiting) :
    s.unseal n c first =
      State.commitCompleted { s with slots := s.slots.set n { s.slots[n] with condition := .dirty } } c .cancelled none := by
  unfold State.unseal
  dsimp only
  rw [hb]
  rfl

end Cancel

/-- Settles O47: the tests in order, then the two boundaries. -/
theorem cancelCommitUnseals : Obligations.CancelCommitUnseals := by
  intro s p r rest slot n first hp h
  rw [exec_cancelCommit_of_heads first hp h]
  refine ⟨fun hrange => congrArg Host.Outcome.next (cancelCommit_of_outOfRange hrange), fun hn => ⟨fun hopen => ?_, ?_⟩⟩
  · exact congrArg Host.Outcome.next (cancelCommit_of_not_sealed hn hopen)
  · rintro c t hc rfl
    have hcancel := cancelCommit_of_sealed (s := s.taken p rest) (t := r.takenAt p) (first := first) hn hc
    refine ⟨fun hdrain => ?_, fun ⟨waiting, hmark⟩ => ?_⟩
    · rw [hcancel, unseal_of_drain hdrain]
      rfl
    · rw [hcancel, unseal_of_mark hmark]
      rfl

end Sys2Proof.Machine
end

section
/-! BIND and UNBIND: O50. -/

namespace Sys2Proof.Machine

section Bind
variable {s : State} {t : Taken} {p q : PortId} {r : CommandRecord} {rest : List CommandRecord} {port slot : Byte} {m n : SlotId}
  {b : Binding}

theorem exec_bind_of_heads (hp : s.rights.holder = some p) (h : s.Heads p r (.bind port slot) rest) :
    exec (.bind p) s = .next ((s.taken p rest).bind (r.takenAt p) port slot) :=
  congrArg Host.Outcome.next <| take_of_heads_of_holder (carryOut := fun t u => u.bind t port slot) h hp fun _ _ => rfl

theorem exec_unbind_of_heads (hp : s.rights.holder = some p) (h : s.Heads p r (.unbind port) rest) :
    exec (.unbind p) s = .next ((s.taken p rest).unbind (r.takenAt p) port) :=
  congrArg Host.Outcome.next <| take_of_heads_of_holder (carryOut := fun t u => u.unbind t port) h hp fun _ _ => rfl

theorem bind_of_outOfRange (h : 6 ≤ port.toNat ∨ 16 ≤ slot.toNat) : s.bind t port slot = s.complete t .badArgument := by
  unfold State.bind
  obtain h | h := h
  · rw [portOf_eq_none h]
  · rw [slotOf_eq_none h]
    cases portOf port <;> rfl

theorem bind_of_busy (hq : port.toNat = q.val) (hn : slot.toNat = n.val)
    (h : (∃ b st, s.ports[q].state = .stalled b st) ∨ s.ports[q].state = .fenced) :
    s.bind t port slot = s.complete t .portBusy := by
  unfold State.bind State.port
  rw [portOf_eq_some hq, slotOf_eq_some hn]
  dsimp only
  obtain ⟨b, st, h⟩ | h := h <;> rw [h]

theorem bind_of_detached (hq : port.toNat = q.val) (hn : slot.toNat = n.val) (h : s.ports[q].state = .detached) :
    s.bind t port slot =
      State.complete
        ((s.modifyPort q fun r => { r with state := .attached { slot := n, lease := r.params.start } }).raiseBinders n) t .ok := by
  unfold State.bind State.port
  rw [portOf_eq_some hq, slotOf_eq_some hn]
  dsimp only
  rw [h]

theorem bind_of_same (hq : port.toNat = q.val) (hn : slot.toNat = n.val) (h : s.ports[q].state = .attached b)
    (hb : b.slot = n) : s.bind t port slot = s.complete t .noEffect := by
  unfold State.bind State.port
  rw [portOf_eq_some hq, slotOf_eq_some hn]
  dsimp only
  rw [h]
  exact if_pos hb

/-- The binding of port `q` moves from slot `m` to slot `n`, with the counts of both (R8, R107). -/
def State.rebound (s : State) (q : PortId) (m n : SlotId) (lease : Lease) : State :=
  { s with
    ports := s.ports.set q { s.ports[q] with state := .attached { slot := n, lease := lease } }
    slots := (s.slots.set m { s.slots[m] with binders := s.slots[m].binders - 1 }).set n
      { s.slots[n] with binders := s.slots[n].binders + 1 } }

theorem rebound_eq (hne : m ≠ n) (lease : Lease) :
    ((s.modifyPort q ({ · with state := .attached { slot := n, lease := lease } })).lowerBinders m).raiseBinders n =
      s.rebound q m n lease := by
  have hslot : (s.slots.set m { s.slots[m] with binders := s.slots[m].binders - 1 })[n] = s.slots[n] :=
    Vector.getElem_set_ne _ _ fun h => hne (Fin.ext h)
  unfold State.rebound State.raiseBinders State.lowerBinders State.modifySlot State.modifyPort
  dsimp only
  rw [hslot]

theorem rebound_condition (hne : m ≠ n) (lease : Lease) : (s.rebound q m n lease).slots[m].condition = s.slots[m].condition := by
  have hslot : (s.rebound q m n lease).slots[m] = { s.slots[m] with binders := s.slots[m].binders - 1 } := by
    unfold State.rebound
    rw [Fin.getElem_fin, Vector.getElem_set_ne _ _ fun h => hne (Fin.ext h).symm, Vector.getElem_set_self]
  rw [hslot]

theorem bind_of_other (hq : port.toNat = q.val) (hn : slot.toNat = n.val) (h : s.ports[q].state = .attached b)
    (hne : b.slot ≠ n) :
    s.bind t port slot =
      (((s.rebound q b.slot n b.lease).leaveWaiting q b.slot).translateReleased q s.slots[b.slot].condition).complete t .ok := by
  unfold State.bind State.port State.slot
  rw [portOf_eq_some hq, slotOf_eq_some hn]
  dsimp only
  rw [h]
  dsimp only
  rw [if_neg hne, rebound_eq hne]

theorem translateReleased_of_drainHeld (u : State) (h : s.DrainHeld m) :
    u.translateReleased q s.slots[m].condition = u.translated q := if_pos ((holdsTranslation_iff s m).2 h)

theorem translateReleased_of_not_drainHeld (u : State) (h : ¬ s.DrainHeld m) :
    u.translateReleased q s.slots[m].condition = u := if_neg (mt (holdsTranslation_iff s m).1 h)

theorem bind_of_not_drainHeld (hq : port.toNat = q.val) (hn : slot.toNat = n.val) (h : s.ports[q].state = .attached b)
    (hne : b.slot ≠ n) (hdrain : ¬ s.DrainHeld b.slot) :
    s.bind t port slot = ((s.rebound q b.slot n b.lease).leaveWaiting q b.slot).complete t .ok := by
  rw [bind_of_other hq hn h hne, translateReleased_of_not_drainHeld _ hdrain]

theorem bind_of_drainHeld (hq : port.toNat = q.val) (hn : slot.toNat = n.val) (h : s.ports[q].state = .attached b)
    (hne : b.slot ≠ n) (hdrain : s.DrainHeld b.slot) :
    s.bind t port slot = ((s.rebound q b.slot n b.lease).translated q).complete t .ok := by
  have hleave : (s.rebound q b.slot n b.lease).leaveWaiting q b.slot = s.rebound q b.slot n b.lease := by
    obtain ⟨c, hc, hb⟩ := hdrain
    refine leaveWaiting_of_not_mem ?_
    rw [Condition.waiting_of_drain ((rebound_condition hne b.lease).trans hc) hb]
    exact List.not_mem_nil
  rw [bind_of_other hq hn h hne, hleave, translateReleased_of_drainHeld _ hdrain]

theorem unbind_of_outOfRange (h : 6 ≤ port.toNat) : s.unbind t port = s.complete t .badArgument := by
  unfold State.unbind
  rw [portOf_eq_none h]

theorem unbind_of_stalled (hq : port.toNat = q.val) (h : ∃ b st, s.ports[q].state = .stalled b st) :
    s.unbind t port = s.complete t .portBusy := by
  obtain ⟨b, st, h⟩ := h
  unfold State.unbind State.port
  rw [portOf_eq_some hq]
  dsimp only
  rw [h]

theorem unbind_of_unbound (hq : port.toNat = q.val) (h : s.ports[q].state = .detached ∨ s.ports[q].state = .fenced) :
    s.unbind t port = s.complete t .noEffect := by
  unfold State.unbind State.port
  rw [portOf_eq_some hq]
  dsimp only
  obtain h | h := h <;> rw [h]

theorem unbind_of_attached (hq : port.toNat = q.val) (h : s.ports[q].state = .attached b) :
    s.unbind t port =
      State.complete
        (((s.modifyPort q ({ · with state := .detached })).lowerBinders b.slot).leaveWaiting q b.slot) t .ok := by
  have hbound : s.ports[q].state.boundSlot? = some b.slot := by rw [h]; rfl
  unfold State.unbind State.port
  rw [portOf_eq_some hq]
  dsimp only
  rw [h]
  dsimp only
  rw [detach_of_bound hbound]

end Bind

/-- Settles O50: BIND by the state of the port it names, then UNBIND. -/
theorem bindAndUnbind : Obligations.BindAndUnbind := by
  refine fun s p r rest port slot q n hp => ⟨fun h => ?_, fun h => ?_⟩
  · rw [exec_bind_of_heads hp h]
    refine ⟨fun hrange => congrArg Host.Outcome.next (bind_of_outOfRange hrange), fun hq hn => ⟨?_, ?_, ?_⟩⟩
    all_goals rw [← taken_state s p rest q]
    · exact fun hbusy => congrArg Host.Outcome.next (bind_of_busy hq hn hbusy)
    · intro hdetached
      refine congrArg Host.Outcome.next ((bind_of_detached hq hn hdetached).trans ?_)
      rw [← taken_params s p rest q]
      rfl
    · refine fun b hb => ⟨fun hsame => congrArg Host.Outcome.next (bind_of_same hq hn hb hsame), ?_⟩
      rintro hne t rfl
      exact ⟨fun hdrain => congrArg Host.Outcome.next (bind_of_not_drainHeld hq hn hb hne hdrain),
        fun hdrain => congrArg Host.Outcome.next (bind_of_drainHeld hq hn hb hne hdrain)⟩
  · rw [exec_unbind_of_heads hp h]
    refine ⟨fun hrange => congrArg Host.Outcome.next (unbind_of_outOfRange hrange), fun hq => ⟨?_, ?_, ?_⟩⟩
    all_goals rw [← taken_state s p rest q]
    · exact fun hstalled => congrArg Host.Outcome.next (unbind_of_stalled hq hstalled)
    · exact fun hunbound => congrArg Host.Outcome.next (unbind_of_unbound hq hunbound)
    · exact fun b hb => congrArg Host.Outcome.next (unbind_of_attached hq hb)

end Sys2Proof.Machine
end

section
/-! RESOLVE: O53. -/

namespace Sys2Proof.Machine

section Resolve
variable {s : State} {t : Taken} {p q : PortId} {r : CommandRecord} {rest : List CommandRecord} {i : Instr}
  {seq : BitVec 16} {code : BitVec 2} {action : Action} {act : State → PortId → State}

theorem exec_resolveRetry_of_heads (hp : s.rights.holder = some p) (h : s.Heads p r (.resolve seq code) rest)
    (htakes : takesAction .retry code = true) :
    exec (.resolveRetry p) s = .next ((s.taken p rest).resolve (r.takenAt p) seq code .retry State.retry) :=
  congrArg Host.Outcome.next <|
    take_of_heads_of_holder (carryOut := fun t u => u.resolve t seq code .retry State.retry) h hp fun _ _ => if_pos htakes

theorem exec_resolveSkip_of_heads (hp : s.rights.holder = some p) (h : s.Heads p r (.resolve seq code) rest)
    (htakes : takesAction .skip code = true) :
    exec (.resolveSkip p) s = .next ((s.taken p rest).resolve (r.takenAt p) seq code .skip State.skip) :=
  congrArg Host.Outcome.next <|
    take_of_heads_of_holder (carryOut := fun t u => u.resolve t seq code .skip State.skip) h hp fun _ _ => if_pos htakes

theorem exec_resolveFence_of_heads (hp : s.rights.holder = some p) (h : s.Heads p r (.resolve seq code) rest)
    (htakes : takesAction .fence code = true) :
    exec (.resolveFence p) s =
      .next ((s.taken p rest).resolve (r.takenAt p) seq code .fence fun u q => u.enterFenced q none) :=
  congrArg Host.Outcome.next <|
    take_of_heads_of_holder (carryOut := fun t u => u.resolve t seq code .fence fun u q => u.enterFenced q none) h hp
      fun _ _ => if_pos htakes

/-- R147: whatever row takes a RESOLVE, it makes the same tests. -/
theorem exec_resolve_of_heads (hp : s.rights.holder = some p) (h : s.Heads p r (.resolve seq code) rest)
    (hi : i ∈ (Command.resolve seq code).rows p []) :
    ∃ action act, exec i s = .next ((s.taken p rest).resolve (r.takenAt p) seq code action act) := by
  obtain ⟨rfl, htakes⟩ | ⟨rfl, htakes⟩ | ⟨rfl, htakes⟩ := resolve_row_cases hi
  · exact ⟨_, _, exec_resolveRetry_of_heads hp h htakes⟩
  · exact ⟨_, _, exec_resolveSkip_of_heads hp h htakes⟩
  · exact ⟨_, _, exec_resolveFence_of_heads hp h htakes⟩

theorem actionOf_eq_none_iff (code : BitVec 2) : actionOf code = none ↔ code = 3 := by
  obtain rfl | rfl | rfl | rfl := actionCode_cases code <;> decide

theorem resolve_of_no_action (h : code = 3) : s.resolve t seq code action act = s.complete t .badArgument := by
  unfold State.resolve
  rw [(actionOf_eq_none_iff code).2 h]

theorem resolve_of_stale (h : code ≠ 3) (hport : s.resolvePort seq = none) :
    s.resolve t seq code action act = s.complete t .stale := by
  obtain ⟨a, ha⟩ := Option.ne_none_iff_exists'.1 (mt (actionOf_eq_none_iff code).1 h)
  unfold State.resolve
  rw [ha]
  dsimp only
  rw [hport]

theorem resolve_of_port (h : code ≠ 3) (hport : s.resolvePort seq = some q) :
    s.resolve t seq code action act = (act s q).complete t .ok (some (.action action)) := by
  obtain ⟨a, ha⟩ := Option.ne_none_iff_exists'.1 (mt (actionOf_eq_none_iff code).1 h)
  unfold State.resolve
  rw [ha]
  dsimp only
  rw [hport]

theorem resolvePort_eq_none (h : ∀ f ∈ s.faults, f.body.isAccess = true → f.seq ≠ seq) : s.resolvePort seq = none := by
  have hnone : s.faults.find? (fun f => f.body.isAccess && f.seq = seq) = none := by
    refine List.find?_eq_none.2 fun f hf hboth => ?_
    obtain ⟨haccess, hseq⟩ := Bool.and_eq_true_iff.1 hboth
    exact h f hf haccess (of_decide_eq_true hseq)
  unfold State.resolvePort
  rw [hnone]
  rfl

theorem resolvePort_eq_some {f : FaultRecord} (hf : f ∈ s.faults) (haccess : f.body.isAccess = true) (hseq : f.seq = seq)
    (honly : ∀ g ∈ s.faults, g.seq = seq → g = f) : s.resolvePort seq = some f.port := by
  have hfound : s.faults.find? (fun f => f.body.isAccess && f.seq = seq) = some f := by
    have hmatch : (f.body.isAccess && decide (f.seq = seq)) = true := by rw [haccess, decide_eq_true hseq]; rfl
    obtain ⟨g, hg⟩ := Option.isSome_iff_exists.1 
      (List.find?_isSome (p := fun f : FaultRecord => f.body.isAccess && f.seq = seq) |>.2 ⟨f, hf, hmatch⟩)
    have hgmatch : (g.body.isAccess && decide (g.seq = seq)) = true :=
      List.find?_some (p := fun f : FaultRecord => f.body.isAccess && f.seq = seq) hg
    rw [hg, honly g (List.mem_of_find?_eq_some hg) (of_decide_eq_true (Bool.and_eq_true_iff.1 hgmatch).2)]
  unfold State.resolvePort
  rw [hfound]
  rfl

end Resolve

/-- Settles O53: the two refusals, then the three actions on the port of the record. -/
theorem resolveActs : Obligations.ResolveActs := by
  intro s p r rest seq code hp h
  refine ⟨fun hcode i hi => ?_, fun hcode hnone i hi => ?_, ?_⟩
  · obtain ⟨action, act, hexec⟩ := exec_resolve_of_heads hp h hi
    rw [hexec, resolve_of_no_action hcode, completed_eq_complete]
  · obtain ⟨action, act, hexec⟩ := exec_resolve_of_heads hp h hi
    have hport : (s.taken p rest).resolvePort seq = none := resolvePort_eq_none hnone
    rw [hexec, resolve_of_stale hcode hport, completed_eq_complete]
  · intro f q b st a hf haccess hseq hq honly hst ha
    have hport : (s.taken p rest).resolvePort seq = some q := hq ▸ resolvePort_eq_some hf haccess hseq honly
    have hend (g : AccessSlot → AccessSlot) :=
      endStall_of_stalled (s := s.taken p rest) g ((taken_state s p rest q).trans hst)
        ((congrArg (·[st.access]) (taken_accessSlots s p rest q)).trans ha)
    rw [taken_params, taken_accessSlots] at hend
    refine ⟨?_, ?_⟩
    · rintro i x action (⟨rfl, rfl, rfl, rfl⟩ | ⟨rfl, rfl, rfl, rfl⟩)
      · rw [exec_resolveRetry_of_heads hp h rfl, resolve_of_port (by decide) hport]
        unfold State.retry
        rw [hend]
        rfl
      · rw [exec_resolveSkip_of_heads hp h rfl, resolve_of_port (by decide) hport]
        unfold State.skip
        rw [hend]
        rfl
    · rintro rfl
      rw [exec_resolveFence_of_heads hp h rfl, resolve_of_port (by decide) hport]
      rfl

end Sys2Proof.Machine
end

section
/-! Command records: O13. -/

namespace Sys2Proof.Machine

/-- A field that a mask keeps is the same in words that agree under the mask. -/
theorem extractLsb'_eq_of_and_eq {v w m : Word} {start len : Nat} (h : v &&& m = w &&& m)
    (hm : m.extractLsb' start len = BitVec.allOnes len) : v.extractLsb' start len = w.extractLsb' start len := by
  have hfield := congrArg (BitVec.extractLsb' start len) h
  rwa [BitVec.extractLsb'_and, BitVec.extractLsb'_and, hm, BitVec.and_allOnes, BitVec.and_allOnes] at hfield

theorem command_congr {v r : CommandRecord} (hcode : v.code = r.code)
    (h1 : v[1] &&& (usedBits r.code).1 = r[1] &&& (usedBits r.code).1)
    (h2 : v[2] &&& (usedBits r.code).2 = r[2] &&& (usedBits r.code).2) : v.command = r.command := by
  have hfield1 (start len : Nat) (hm : (usedBits r.code).1.extractLsb' start len = BitVec.allOnes len) :=
    extractLsb'_eq_of_and_eq h1 hm
  have hfield2 (start len : Nat) (hm : (usedBits r.code).2.extractLsb' start len = BitVec.allOnes len) :=
    extractLsb'_eq_of_and_eq h2 hm
  unfold usedBits at hfield1 hfield2
  unfold CommandRecord.command
  rw [hcode]
  generalize r.code.toNat = k at hfield1 hfield2 ⊢
  split
  case h_1 => rw [hfield1 0 8 rfl, hfield1 8 8 rfl, hfield2 0 12 rfl, hfield2 12 2 rfl]
  case h_2 | h_3 | h_5 | h_7 | h_9 | h_11 | h_12 | h_14 | h_15 | h_16 => rw [hfield1 0 8 rfl]
  case h_4 => rw [hfield1 0 8 rfl, hfield1 8 8 rfl, hfield1 16 9 rfl, hfield2 0 24 rfl]
  case h_6 => rw [hfield1 0 8 rfl, hfield1 8 2 rfl]
  case h_8 | h_19 => rw [hfield1 0 8 rfl, hfield1 8 8 rfl]
  case h_10 => rw [hfield1 0 8 rfl, hfield1 8 2 rfl, hfield2 0 16 rfl]
  case h_13 => rw [hfield1 0 16 rfl, hfield1 16 2 rfl]
  case h_17 => rw [hfield1 0 13 rfl, hfield2 0 16 rfl]
  case h_18 | h_20 | h_21 | h_22 => rfl

section Fields
variable {n m k l : Nat}

theorem extractLsb'_second (x : BitVec n) (y : BitVec m) (z : BitVec k) : (x ++ y ++ z).extractLsb' k m = y := by
  rw [BitVec.extractLsb'_append_eq_of_le (Nat.le_refl k), Nat.sub_self, BitVec.extractLsb'_append_eq_right]

theorem extractLsb'_third (x : BitVec n) (y : BitVec m) (z : BitVec k) (w : BitVec l) :
    (x ++ y ++ z ++ w).extractLsb' (k + l) m = y := by
  rw [BitVec.extractLsb'_append_eq_of_le (Nat.le_add_left l k), Nat.add_sub_cancel, extractLsb'_second]

end Fields

theorem tag_record (c : Command) (tag : Byte) : (c.record tag).tag = tag := BitVec.extractLsb'_append_eq_right

theorem code_record (c : Command) (tag : Byte) : (c.record tag).code = c.code := extractLsb'_second ..

theorem command_record (c : Command) (tag : Byte) : (c.record tag).command = c := by
  unfold CommandRecord.command
  rw [code_record]
  cases c with
  | sync | claim | accept | unknown => rfl
  | discard b | clear b | abortLoad b | cancelCommit b | unbind b | fence b | unfence b | readFault b | setStandby b
  | handover b =>
    exact congrArg _ (BitVec.extractLsb'_append_eq_right (a := 0#24) (b := b))
  | bind first second | checkPage first second =>
    exact congrArg₂ _ (BitVec.extractLsb'_append_eq_right (a := 0#16 ++ second) (b := first))
      (extractLsb'_second 0#16 second first)
  | commit slot boundary =>
    exact congrArg₂ _ (BitVec.extractLsb'_append_eq_right (a := 0#22 ++ boundary) (b := slot))
      (extractLsb'_second 0#22 boundary slot)
  | resolve seq action =>
    exact congrArg₂ _ (BitVec.extractLsb'_append_eq_right (a := 0#14 ++ action) (b := seq))
      (extractLsb'_second 0#14 action seq)
  | configure memsize limit =>
    exact congrArg₂ _ (BitVec.extractLsb'_append_eq_right (a := 0#19) (b := memsize))
      (BitVec.extractLsb'_append_eq_right (a := 0#16) (b := limit))
  | putEntry slot page frame rights =>
    show Command.putEntry ((0#16 ++ page ++ slot).extractLsb' 0 8) ((0#16 ++ page ++ slot).extractLsb' 8 8)
      ((0#18 ++ rights ++ frame).extractLsb' 0 12) ((0#18 ++ rights ++ frame).extractLsb' 12 2) = _
    rw [BitVec.extractLsb'_append_eq_right, extractLsb'_second, BitVec.extractLsb'_append_eq_right, extractLsb'_second]
  | load slot first count addr =>
    show Command.load ((0#7 ++ count ++ first ++ slot).extractLsb' 0 8) ((0#7 ++ count ++ first ++ slot).extractLsb' 8 8)
      ((0#7 ++ count ++ first ++ slot).extractLsb' (8 + 8) 9) ((0#8 ++ addr).extractLsb' 0 24) = _
    rw [BitVec.extractLsb'_append_eq_right, extractLsb'_second, extractLsb'_third, BitVec.extractLsb'_append_eq_right]
  | setLease port fraction period =>
    show Command.setLease ((0#22 ++ fraction ++ port).extractLsb' 0 8) ((0#22 ++ fraction ++ port).extractLsb' 8 2)
      ((0#16 ++ period).extractLsb' 0 16) = _
    rw [BitVec.extractLsb'_append_eq_right, extractLsb'_second, BitVec.extractLsb'_append_eq_right]

/-- Settles O13: each field is read from where it was put, and no other bit is read. -/
theorem commandRecordRoundTrip : Obligations.CommandRecordRoundTrip := by
  refine ⟨fun c tag => ⟨command_record c tag, tag_record c tag, code_record c tag⟩, fun r v h0 h1 h2 => ?_⟩
  have hfield {start len : Nat} (h : start + len ≤ 16) : v[0].extractLsb' start len = r[0].extractLsb' start len := by
    rw [← BitVec.extractLsb'_extractLsb'_of_le h, h0, BitVec.extractLsb'_extractLsb'_of_le h]
  have hcode : v.code = r.code := hfield (by decide)
  exact ⟨command_congr hcode h1 h2, hfield (by decide), hcode⟩

end Sys2Proof.Machine
end

section
/-! Device reset and power-up: O60. -/

namespace Sys2Proof.Machine

theorem inResetState_powerUp (pending : List Instr) : State.InResetState { State.reset with pending := pending } fun _ => [] where
  slots n := reset_slot n
  ports p := (reset_port p).trans (acceptHeld_of_no_requests rfl).symm
  jobs := rfl
  entries := rfl
  issue p := reset_issue p
  position := rfl
  faults := rfl
  seqCounter := rfl
  stampCount := rfl
  rights := rfl
  memsize := rfl
  stallLimit := rfl

/-- Every port accepts what its channel held into its empty slots. -/
theorem ports_deviceReset_acceptAll (s : State) (p : PortId) :
    s.deviceReset.acceptAll.ports[p] = PortRec.acceptHeld { PortRec.reset with requests := s.ports[p].requests } := by
  have hreset : s.deviceReset.ports[p] = { PortRec.reset with requests := s.ports[p].requests } := Vector.getElem_ofFn p.isLt
  rw [← hreset]
  exact Vector.getElem_ofFn p.isLt

theorem inResetState_deviceReset (s : State) : s.deviceReset.acceptAll.InResetState fun p => s.ports[p].requests where
  slots n := reset_slot n
  ports p := ports_deviceReset_acceptAll s p
  jobs := rfl
  entries := rfl
  issue p := reset_issue p
  position := rfl
  faults := rfl
  seqCounter := rfl
  stampCount := rfl
  rights := rfl
  memsize := rfl
  stallLimit := rfl

/-- Settles O60: both leave the state after reset; the device reset keeps what stands outside the hub. -/
theorem deviceResetAndPowerUp : Obligations.DeviceResetAndPowerUp := fun s =>
  ⟨⟨{ State.reset with pending := s.pending }, rfl, rfl, rfl, rfl, rfl, inResetState_powerUp s.pending⟩,
    ⟨s.deviceReset.acceptAll, rfl, rfl, rfl, rfl, rfl, inResetState_deviceReset s⟩⟩

end Sys2Proof.Machine
end

section
/-! A port that loses its binding and its roles, seen port by port and slot by slot. -/

namespace Sys2Proof.Machine

/-! ## Completions that join -/

/-- A port record with `cs` at the tail of its completion queue, and COMPLETION set if any joined (R175). -/
def PortRec.receives (r : PortRec) (cs : List Completion) : PortRec :=
  { r with completions := r.completions ++ cs, flags := r.flags ||| if cs = [] then 0#6 else 1#6 }

theorem receives_nil (r : PortRec) : r.receives [] = r := by simp [PortRec.receives]

section Completions
variable {s t : State} {p q : PortId} {n : SlotId} {c : PendingCommit} {waiting : List PortId}

theorem ports_modifyPort_eq (s : State) (p q : PortId) (f : PortRec → PortRec) :
    (s.modifyPort p f).ports[q] = if q = p then f s.ports[q] else s.ports[q] := by
  rw [Fin.getElem_fin, State.ports_modifyPort]
  by_cases h : p = q
  · subst h
    rw [if_pos rfl, if_pos rfl]
    rfl
  · rw [if_neg h, if_neg (Ne.symm h)]
    rfl

theorem ports_joined (s : State) (p q : PortId) (c : Completion) :
    (s.joined p c).ports[q] = s.ports[q].receives (if p = q then [c] else []) := by
  have hjoined : s.joined p c = s.modifyPort p (·.receives [c]) := rfl
  rw [hjoined, ports_modifyPort_eq]
  by_cases h : q = p
  · rw [if_pos h, if_pos h.symm]
  · rw [if_neg h, if_neg (Ne.symm h), receives_nil]

theorem ports_commitCompleted (s : State) (c : PendingCommit) (q : PortId) (status : Status) (result : Option Result) :
    (s.commitCompleted c status result).ports[q] =
      s.ports[q].receives
        (if c.owed = true ∧ c.issuer.port = q then [{ tag := c.issuer.tag, code := 0x06, status := status, result := result }]
        else []) := by
  unfold State.commitCompleted
  by_cases howed : c.owed = true
  · rw [if_pos howed, ports_joined]
    simp only [howed, true_and]
  · rw [if_neg howed, if_neg fun h => howed h.1, receives_nil]

theorem swapCompletions_of_unbound (h : s.ports[p].state.boundSlot? = none) : s.swapCompletions p q = [] := by
  unfold State.swapCompletions
  rw [h]

theorem swapCompletions_of_mem (hn : s.ports[p].state.boundSlot? = some n) (hc : s.slots[n].condition = .sealed c)
    (hb : c.boundary = .mark waiting) (hp : p ∈ waiting) :
    s.swapCompletions p q =
      if (∀ o ∈ waiting, o = p) ∧ c.owed = true ∧ c.issuer.port = q then
        [{ tag := c.issuer.tag, code := 0x06, status := .ok, result := some (.commit true) }]
      else [] := by
  unfold State.swapCompletions
  rw [hn]
  dsimp only
  rw [hc]
  dsimp only
  rw [hb]
  simp only [hp, true_and]

theorem swapCompletions_of_notMem (hn : s.ports[p].state.boundSlot? = some n) (hp : p ∉ s.slots[n].condition.waiting) :
    s.swapCompletions p q = [] := by
  unfold State.swapCompletions
  rw [hn]
  dsimp only
  cases hc : s.slots[n].condition with
  | clean | dirty => rfl
  | sealed c =>
    dsimp only
    cases hb : c.boundary with
    | drain => rfl
    | mark waiting => exact if_neg fun h => hp ((Condition.waiting_of_mark hc hb).symm ▸ h.1)

theorem swapCompletions_congr (hstate : t.ports[p].state = s.ports[p].state) (hslots : t.slots = s.slots) :
    t.swapCompletions p q = s.swapCompletions p q := by
  unfold State.swapCompletions
  rw [hstate, hslots]

end Completions

/-! ## A port leaves its slot -/

section Detach
variable {s : State} {p q : PortId} {n : SlotId} {st : PortState}

theorem ports_leaveWaiting (hn : s.ports[p].state.boundSlot? = some n) (u : State) (hu : u.slots[n].condition = s.slots[n].condition) :
    (u.leaveWaiting p n).ports[q] = u.ports[q].receives (s.swapCompletions p q) := by
  by_cases hp : p ∈ s.slots[n].condition.waiting
  · obtain ⟨c, waiting, hc, hb, hmem⟩ := (mem_waiting_iff _ p).1 hp
    rw [leaveWaiting_of_mem (hu.trans hc) hb hmem, swapCompletions_of_mem hn hc hb hmem]
    by_cases hlast : ∀ o ∈ waiting, o = p
    · rw [if_pos hlast, State.markSwapped, ports_commitCompleted]
      simp only [eq_true hlast, true_and]
      rfl
    · rw [if_neg hlast, if_neg fun h => hlast h.1, receives_nil]
  · rw [leaveWaiting_of_not_mem (hu ▸ hp), swapCompletions_of_notMem hn hp, receives_nil]

theorem condition_lowerBinders (s : State) (n : SlotId) : (s.lowerBinders n).slots[n].condition = s.slots[n].condition := by
  simp [State.lowerBinders]

/-- R87, R109: what a port that leaves its slot leaves at every port. -/
theorem ports_detach (s : State) (p q : PortId) (st : PortState) :
    (s.detach p st).ports[q] =
      PortRec.receives (if q = p then { s.ports[q] with state := st } else s.ports[q]) (s.swapCompletions p q) := by
  cases hn : s.ports[p].state.boundSlot? with
  | none => rw [detach_of_unbound hn, swapCompletions_of_unbound hn, receives_nil, ports_modifyPort_eq]
  | some n =>
    have hleave := ports_leaveWaiting (q := q) hn ((s.modifyPort p ({ · with state := st })).lowerBinders n)
      (condition_lowerBinders _ n)
    rw [detach_of_bound hn, hleave]
    exact congrArg (PortRec.receives · _) (ports_modifyPort_eq s p q ({ · with state := st }))

end Detach

section Slots
variable {s : State} {p : PortId} {n : SlotId} {st : PortState} {c : PendingCommit} {waiting : List PortId}

theorem slot_imageSwapped (s : State) (n : SlotId) :
    (s.imageSwapped n).slots[n] = { s.slots[n] with live := s.slots[n].staged, condition := .clean } :=
  Vector.getElem_set_self ..

theorem slots_commitCompleted (s : State) (c : PendingCommit) (status : Status) (result : Option Result) :
    (s.commitCompleted c status result).slots = s.slots := by
  unfold State.commitCompleted
  split <;> rfl

theorem slot_leaveWaiting_last (hc : s.slots[n].condition = .sealed c) (hb : c.boundary = .mark waiting) (hp : p ∈ waiting)
    (hlast : ∀ q ∈ waiting, q = p) :
    (s.leaveWaiting p n).slots[n] = { s.slots[n] with live := s.slots[n].staged, condition := .clean } := by
  rw [leaveWaiting_of_mem hc hb hp, if_pos hlast, State.markSwapped, slots_commitCompleted]
  exact slot_imageSwapped s n

theorem slot_leaveWaiting_others (hc : s.slots[n].condition = .sealed c) (hb : c.boundary = .mark waiting) (hp : p ∈ waiting)
    (hothers : ∃ q ∈ waiting, q ≠ p) :
    (s.leaveWaiting p n).slots[n] =
      { s.slots[n] with condition := .sealed { c with boundary := .mark (waiting.filter (· ≠ p)) } } := by
  obtain ⟨q, hq, hne⟩ := hothers
  rw [leaveWaiting_of_mem hc hb hp, if_neg fun h => hne (h q hq)]
  exact Vector.getElem_set_self ..

/-- What a port's leaving makes of a slot: its contents, its counts, and its waiting set. -/
structure MapSlot.DetachedTo (m : MapSlot) (p : PortId) (bound : Prop) [Decidable bound] (m' : MapSlot) : Prop where
  staged : m'.staged = m.staged
  inFlight : m'.inFlight = m.inFlight
  binders : m'.binders = if bound then m.binders - 1 else m.binders
  last : bound → ∀ c waiting, m.condition = .sealed c → c.boundary = .mark waiting → p ∈ waiting →
    (∀ q ∈ waiting, q = p) → m'.live = m.staged ∧ m'.condition = .clean
  others : bound → ∀ c waiting, m.condition = .sealed c → c.boundary = .mark waiting → p ∈ waiting →
    (∃ q ∈ waiting, q ≠ p) → m'.live = m.live ∧ m'.condition = .sealed { c with boundary := .mark (waiting.filter (· ≠ p)) }
  kept : ¬ bound ∨ p ∉ m.condition.waiting → m'.live = m.live ∧ m'.condition = m.condition

theorem detachedTo_of_not_bound {bound : Prop} [Decidable bound] (h : ¬ bound) (m : MapSlot) : m.DetachedTo p bound m where
  staged := rfl
  inFlight := rfl
  binders := (if_neg h).symm
  last hbound := absurd hbound h
  others hbound := absurd hbound h
  kept _ := ⟨rfl, rfl⟩

theorem slot_lowerBinders (s : State) (n : SlotId) :
    (s.lowerBinders n).slots[n] = { s.slots[n] with binders := s.slots[n].binders - 1 } := Vector.getElem_set_self ..

theorem detachedTo_leaveWaiting (s : State) (p : PortId) (n : SlotId) {bound : Prop} [Decidable bound] (hbound : bound) :
    s.slots[n].DetachedTo p bound ((s.lowerBinders n).leaveWaiting p n).slots[n] := by
  have hlower := slot_lowerBinders s n
  have hcondition := condition_lowerBinders s n
  by_cases hp : p ∈ s.slots[n].condition.waiting
  · obtain ⟨c, waiting, hc, hb, hmem⟩ := (mem_waiting_iff _ p).1 hp
    have honly : ∀ {d : PendingCommit} {others : List PortId}, s.slots[n].condition = .sealed d → d.boundary = .mark others →
        d = c ∧ others = waiting := fun {d others} hd ho => by
      obtain rfl := Condition.sealed.inj (hd.symm.trans hc)
      exact ⟨rfl, Boundary.mark.inj (ho.symm.trans hb)⟩
    by_cases hlast : ∀ q ∈ waiting, q = p
    · rw [slot_leaveWaiting_last (hcondition.trans hc) hb hmem hlast, hlower]
      refine ⟨rfl, rfl, (if_pos hbound).symm, fun _ _ _ _ _ _ _ => ⟨rfl, rfl⟩, fun _ d others hd ho _ hmore => ?_,
        fun h => absurd h (not_or.2 ⟨not_not.2 hbound, not_not.2 hp⟩)⟩
      obtain ⟨rfl, rfl⟩ := honly hd ho
      obtain ⟨q, hq, hne⟩ := hmore
      exact absurd (hlast q hq) hne
    · have hothers : ∃ q ∈ waiting, q ≠ p := by
        push Not at hlast
        exact hlast
      rw [slot_leaveWaiting_others (hcondition.trans hc) hb hmem hothers, hlower]
      refine ⟨rfl, rfl, (if_pos hbound).symm, fun _ d others hd ho _ hall => ?_, fun _ d others hd ho _ _ => ?_,
        fun h => absurd h (not_or.2 ⟨not_not.2 hbound, not_not.2 hp⟩)⟩
      · obtain ⟨rfl, rfl⟩ := honly hd ho
        exact absurd hall hlast
      · obtain ⟨rfl, rfl⟩ := honly hd ho
        exact ⟨rfl, rfl⟩
  · rw [leaveWaiting_of_not_mem (hcondition ▸ hp), hlower]
    refine ⟨rfl, rfl, (if_pos hbound).symm, fun _ d others hd ho hmem => ?_, fun _ d others hd ho hmem => ?_,
      fun _ => ⟨rfl, rfl⟩⟩
    all_goals exact absurd ((mem_waiting_iff _ p).2 ⟨d, others, hd, ho, hmem⟩) hp

/-- R86, R87, R109: what a port that leaves its slot leaves at every slot. -/
theorem slot_detach (s : State) (p : PortId) (st : PortState) (n : SlotId) :
    s.slots[n].DetachedTo p (s.ports[p].state.boundSlot? = some n) (s.detach p st).slots[n] := by
  by_cases hn : s.ports[p].state.boundSlot? = some n
  · rw [detach_of_bound hn]
    exact detachedTo_leaveWaiting (s.modifyPort p ({ · with state := st })) p n hn
  · have hslot : (s.detach p st).slots[n] = s.slots[n] := by
      cases hm : s.ports[p].state.boundSlot? with
      | none =>
        rw [detach_of_unbound hm]
        rfl
      | some m =>
        have hne : m ≠ n := fun h => hn (h ▸ hm)
        rw [detach_of_bound hm]
        exact (slot_leaveWaiting_of_ne _ p hne).trans (State.slots_modifySlot_ne _ _ hne)
    rw [hslot]
    exact detachedTo_of_not_bound hn _

end Slots

/-! ## Roles that end -/

section Roles
variable {s : State} {p q : PortId}

theorem ports_endRoles (h : s.ports[p].state.isAttached = false) (q : PortId) :
    (s.endRoles p).ports[q] =
      { s.ports[q] with
        flags := s.ports[q].flags ||| if (s.rolesEnded p).role q = s.rights.role q then 0#6 else 16#6 } := by
  rw [endRoles_eq h, Fin.getElem_fin, State.ports_moveRights]
  by_cases hrole : s.rights.role q = (s.rolesEnded p).role q
  · rw [if_pos hrole, if_pos hrole.symm, BitVec.or_zero]
    rfl
  · rw [if_neg hrole, if_neg (Ne.symm hrole)]
    rfl

theorem ports_raiseSupervisor (s : State) (f : Flag) (q : PortId) :
    (s.raiseSupervisor f).ports[q] = if s.rights.holder = some q then s.ports[q].raise f else s.ports[q] := by
  unfold State.raiseSupervisor
  cases hp : s.rights.holder with
  | none => rw [if_neg nofun]
  | some p =>
    dsimp only
    rw [ports_modifyPort_eq]
    by_cases h : q = p
    · rw [if_pos h, if_pos (congrArg some h.symm)]
    · rw [if_neg h, if_neg fun he => h (Option.some.inj he).symm]

end Roles

end Sys2Proof.Machine
end

section
/-! Entry into FENCED: O34. -/

namespace Sys2Proof.Machine

section Fenced
variable {s : State} {p q : PortId}

/-- The state from which a port that enters FENCED leaves its slot (R127). -/
def State.fencedAccesses (s : State) (p : PortId) : State := (s.modifyPort p (·.answerFenced)).retireAccess p

theorem fencedRoleless_eq (s : State) (p : PortId) :
    s.fencedRoleless p = ((s.fencedAccesses p).detach p .fenced).endRoles p := rfl

theorem ports_fencedAccesses (s : State) (p q : PortId) :
    (s.fencedAccesses p).ports[q] = if q = p then s.ports[q].answerFenced else s.ports[q] := ports_modifyPort_eq ..

theorem fencedAccesses_swapCompletions (s : State) (p q : PortId) :
    (s.fencedAccesses p).swapCompletions p q = s.swapCompletions p q := by
  refine swapCompletions_congr ?_ rfl
  rw [ports_fencedAccesses, if_pos rfl]
  rfl

theorem detach_rolesEnded (u : State) (p : PortId) (st : PortState) (hr : u.rights = s.rights)
    (hst : ∀ q, q ≠ p → u.states q = s.states q) : (u.detach p st).rolesEnded p = s.rolesEnded p := by
  refine rolesEnded_congr ((State.detach_rights ..).trans hr) fun q hq => ?_
  rw [states_detach, Function.update_of_ne hq, hst q hq]

/-- R127: every port once port `p` has lost its accesses, its slot and its roles. -/
theorem ports_fencedRoleless (s : State) (p q : PortId) :
    (s.fencedRoleless p).ports[q] =
      { (if q = p then { s.ports[q].answerFenced with state := .fenced } else s.ports[q]) with
        completions := s.ports[q].completions ++ s.swapCompletions p q
        flags := s.flagsAfterLoss p q } := by
  have hdetached := ports_detach (s.fencedAccesses p) p q .fenced
  have hself : ((s.fencedAccesses p).detach p .fenced).ports[p].state.isAttached = false := by
    rw [ports_detach, if_pos rfl]
    rfl
  have hroles : ((s.fencedAccesses p).detach p .fenced).rolesEnded p = s.rolesEnded p := by
    refine detach_rolesEnded (s.fencedAccesses p) p .fenced rfl fun q hq => ?_
    rw [states_apply, ports_fencedAccesses, if_neg hq]
    rfl
  rw [fencedRoleless_eq, ports_endRoles hself, hdetached, hroles, State.detach_rights, fencedAccesses_swapCompletions,
    ports_fencedAccesses]
  by_cases h : q = p
  · rw [if_pos h, if_pos h, if_pos h]
    rfl
  · rw [if_neg h, if_neg h, if_neg h]
    rfl

theorem ports_joinFault (u : State) (p q : PortId) (body : FaultBody) :
    (u.joinFault p body).ports[q] = if u.rights.holder = some q then u.ports[q].raise .fault else u.ports[q] :=
  ports_raiseSupervisor ..

theorem joinFault_seqCounter (u : State) (p : PortId) (body : FaultBody) :
    (u.joinFault p body).seqCounter = u.nextSequence + 1 := State.raiseSupervisor_seqCounter ..

theorem ports_recordViolation (u : State) (p : PortId) (held : Bool) (cause : Option LeaseKind) (q : PortId) :
    (u.recordViolation p held cause).ports[q] =
      { u.ports[q] with
        flags := u.ports[q].flags ||| if cause ≠ none ∧ u.rights.holder = some q then 2#6 else 0#6 } := by
  cases cause with
  | none =>
    rw [if_neg fun h => h.1 rfl, BitVec.or_zero]
    rfl
  | some kind =>
    refine (ports_joinFault u p q _).trans ?_
    have hcause : some kind ≠ none := nofun
    by_cases h : u.rights.holder = some q
    · rw [if_pos h, if_pos (And.intro hcause h)]
      rfl
    · rw [if_neg h, if_neg fun hboth => h (And.right hboth), BitVec.or_zero]

/-- R127, R128: every port once port `p` has entered FENCED. -/
theorem ports_enterFenced (s : State) (p : PortId) (cause : Option LeaseKind) (q : PortId) :
    (s.enterFenced p cause).ports[q] =
      { (if q = p then { s.ports[q].answerFenced with state := .fenced } else s.ports[q]) with
        completions := s.ports[q].completions ++ s.swapCompletions p q
        flags := s.flagsAfterLoss p q ||| (if q = p then 8#6 else 0#6) |||
          if cause ≠ none ∧ (s.rolesEnded p).holder = some q then 2#6 else 0#6 } := by
  rw [enterFenced_eq, ports_modifyPort_eq, ports_recordViolation, ports_fencedRoleless, fencedRoleless_rights]
  by_cases h : q = p
  · rw [if_pos h, if_pos h, if_pos h, BitVec.or_assoc, BitVec.or_comm 8#6, ← BitVec.or_assoc]
    rfl
  · rw [if_neg h, if_neg h, if_neg h, BitVec.or_zero]

theorem slots_enterFenced (s : State) (p : PortId) (cause : Option LeaseKind) :
    (s.enterFenced p cause).slots = ((s.fencedAccesses p).detach p .fenced).slots := by
  rw [enterFenced_eq, State.modifyPort_slots, State.recordViolation_slots, fencedRoleless_eq, State.endRoles_slots]

theorem slot_enterFenced (s : State) (p : PortId) (cause : Option LeaseKind) (n : SlotId) :
    s.slots[n].DetachedTo p (s.ports[p].state.boundSlot? = some n) (s.enterFenced p cause).slots[n] := by
  have hbound : (s.fencedAccesses p).ports[p].state = s.ports[p].state := by
    rw [ports_fencedAccesses, if_pos rfl]
    rfl
  have hslot := slot_detach (s.fencedAccesses p) p .fenced n
  rw [hbound, ← slots_enterFenced s p cause] at hslot
  exact hslot

theorem seqCounter_enterFenced (s : State) (p : PortId) (cause : Option LeaseKind) :
    (s.enterFenced p cause).seqCounter = if cause = none then s.seqCounter else (s.retireAccess p).nextSequence + 1 := by
  have hcounter : (s.fencedRoleless p).seqCounter = s.seqCounter :=
    (State.endRoles_seqCounter ..).trans (State.detach_seqCounter ..)
  rw [enterFenced_eq, State.modifyPort_seqCounter]
  cases cause with
  | none => exact hcounter.trans (if_pos rfl).symm
  | some kind =>
    have hseq : (s.fencedRoleless p).nextSequence = (s.retireAccess p).nextSequence :=
      nextSequence_congr (fencedRoleless_faults s p) hcounter
    rw [if_neg nofun, ← hseq]
    exact joinFault_seqCounter ..

end Fenced

theorem answerFenced_slot (r : PortRec) (k : AccId) :
    r.answerFenced.slots[k] =
      match r.slots[k] with
      | some { access := a, state := .untranslated } => some (answeredSlot a .errFenced)
      | some { access := a, state := .stalled } => some (answeredSlot a .errFenced)
      | other => other := by
  have hslot : r.answerFenced.slots[k] = r.slots[k].bind fun a => match a.state with
      | .untranslated | .stalled => some (a.answer .errFenced)
      | .issued _ _ | .answered _ _ => some a :=
    Vector.getElem_ofFn k.isLt
  rw [hslot]
  cases r.slots[k] with
  | none => rfl
  | some y =>
    obtain ⟨a, st⟩ := y
    cases st <;> rfl

theorem violationRecord_eq (s : State) (p : PortId) (kind : LeaseKind) :
    s.violationRecord p kind =
      { seq := (s.retireAccess p).nextSequence, port := p, stamp := s.stampCount
        body := .lease kind (if s.rights.holder = some p then .lost (s.rolesEnded p).holder else .kept) } := by
  unfold State.violationRecord
  by_cases h : s.rights.holder = some p
  · rw [if_pos (isSupervisor_of_holder h), if_pos h]
  · rw [isSupervisor_of_not_holder h, if_neg h]
    rfl

/-- Settles O34: the ports, the slots, and the rest field by field. -/
theorem entryIntoFenced : Obligations.EntryIntoFenced := by
  rintro s p cause t rfl
  refine ⟨⟨s.ports[p].answerFenced.slots, ?_, answerFenced_slot s.ports[p]⟩, fun q hq => ?_, fun n => ?_, ?_,
    seqCounter_enterFenced s p cause, enterFenced_rights s p cause, State.enterFenced_jobs .., State.enterFenced_mem ..,
    State.enterFenced_stampCount .., State.enterFenced_memsize .., State.enterFenced_stallLimit .., State.enterFenced_sent ..,
    State.enterFenced_delivered .., State.enterFenced_pending ..⟩
  · rw [ports_enterFenced, if_pos rfl, if_pos rfl]
    rfl
  · rw [ports_enterFenced, if_neg hq, if_neg hq, BitVec.or_zero]
  · obtain ⟨hstaged, hflight, hbinders, hlast, hothers, hkept⟩ := slot_enterFenced s p cause n
    exact ⟨hstaged, hflight, hbinders, fun hn c waiting hc hb hp => ⟨hlast hn c waiting hc hb hp, hothers hn c waiting hc hb hp⟩,
      hkept⟩
  · rw [enterFenced_faults]
    cases cause with
    | none => rfl
    | some kind => exact congrArg (withoutAccess s.faults p ++ [·]) (violationRecord_eq s p kind)

end Sys2Proof.Machine
end

section
/-! The port reset: O59. -/

namespace Sys2Proof.Machine

section PortReset
variable {s : State} {p q : PortId} {n : SlotId}

/-! ## The state from which a port reset takes the port's slot -/

theorem ports_resetAccesses (s : State) (p q : PortId) :
    (s.resetAccesses p).ports[q] = if q = p then s.ports[q].emptyControl.emptyAccesses else s.ports[q] := by
  unfold State.resetAccesses
  rw [ports_modifyPort_eq]
  have hports : ((s.modifyPort p (·.emptyControl)).disown p).ports[q] = if q = p then s.ports[q].emptyControl else s.ports[q] :=
    ports_modifyPort_eq ..
  rw [hports]
  by_cases h : q = p
  · rw [if_pos h, if_pos h, if_pos h]
  · rw [if_neg h, if_neg h, if_neg h]

theorem slot_resetAccesses (s : State) (p : PortId) (n : SlotId) :
    (s.resetAccesses p).slots[n] = { s.slots[n] with condition := s.slots[n].condition.disown p } := Vector.getElem_ofFn n.isLt

theorem state_resetAccesses (s : State) (p q : PortId) : (s.resetAccesses p).ports[q].state = s.ports[q].state :=
  congrFun (states_resetAccesses s p) q

/-- The pending commit of a slot once nothing that `p` issued is owed (R98). -/
def PendingCommit.disowned (c : PendingCommit) (p : PortId) : PendingCommit :=
  if c.issuer.port = p then { c with owed := false } else c

theorem disown_sealed (c : PendingCommit) (p : PortId) : (Condition.sealed c).disown p = .sealed (c.disowned p) := rfl

theorem disowned_boundary (c : PendingCommit) (p : PortId) : (c.disowned p).boundary = c.boundary := by
  unfold PendingCommit.disowned
  split <;> rfl

theorem waiting_disown (x : Condition) (p : PortId) : (x.disown p).waiting = x.waiting := by
  cases x with
  | clean | dirty => rfl
  | sealed c =>
    rw [disown_sealed]
    unfold Condition.waiting
    dsimp only
    rw [disowned_boundary]

theorem disowned_issuer (c : PendingCommit) (p : PortId) : (c.disowned p).issuer = c.issuer := by
  unfold PendingCommit.disowned
  split <;> rfl

theorem disowned_owed (c : PendingCommit) (p : PortId) :
    (c.disowned p).owed = if c.issuer.port = p then false else c.owed := by
  unfold PendingCommit.disowned
  split <;> rfl

/-- R98: a swap that follows from the reset completes nothing at the port itself, and what it did at any other. -/
theorem swapCompletions_resetAccesses (s : State) (p q : PortId) :
    (s.resetAccesses p).swapCompletions p q = if q = p then [] else s.swapCompletions p q := by
  cases hn : s.ports[p].state.boundSlot? with
  | none =>
    rw [swapCompletions_of_unbound ((congrArg (·.boundSlot?) (state_resetAccesses s p p)).trans hn),
      swapCompletions_of_unbound hn, ite_self]
  | some n =>
    have hn' : (s.resetAccesses p).ports[p].state.boundSlot? = some n :=
      (congrArg (·.boundSlot?) (state_resetAccesses s p p)).trans hn
    have hcondition : (s.resetAccesses p).slots[n].condition = s.slots[n].condition.disown p :=
      congrArg (·.condition) (slot_resetAccesses s p n)
    by_cases hp : p ∈ s.slots[n].condition.waiting
    · obtain ⟨c, waiting, hc, hb, hmem⟩ := (mem_waiting_iff _ p).1 hp
      have hc' : (s.resetAccesses p).slots[n].condition = .sealed (c.disowned p) := by rw [hcondition, hc, disown_sealed]
      rw [swapCompletions_of_mem hn' hc' ((disowned_boundary c p).trans hb) hmem, swapCompletions_of_mem hn hc hb hmem,
        disowned_issuer, disowned_owed]
      by_cases hq : q = p
      · rw [if_pos hq, if_neg]
        rintro ⟨-, howed, hissuer⟩
        rw [if_pos (hissuer.trans hq)] at howed
        cases howed
      · rw [if_neg hq]
        by_cases hissuer : c.issuer.port = q
        · rw [if_neg fun h : c.issuer.port = p => hq (hissuer.symm.trans h)]
        · rw [if_neg fun h => hissuer h.2.2, if_neg fun h => hissuer h.2.2]
    · rw [swapCompletions_of_notMem hn' (by rwa [hcondition, waiting_disown]), swapCompletions_of_notMem hn hp, ite_self]

/-! ## The change of state, the roles and what follows -/

theorem afterReset_of_unbound {st : PortState} (h : st.boundSlot? = none) : st.afterReset = st := by
  cases st with
  | detached | fenced => rfl
  | attached | stalled => cases h

theorem afterReset_of_bound {st : PortState} (h : st.boundSlot? = some n) : st.afterReset = .detached := by
  cases st with
  | attached | stalled => rfl
  | detached | fenced => cases h

theorem afterReset_eq (st : PortState) : st.afterReset = if st = .fenced then .fenced else .detached := by
  cases st <;> rfl

/-- R114: every port once the reset has changed port `p`'s state. -/
theorem ports_resetState (u : State) (p q : PortId) :
    (u.resetState p).ports[q] =
      PortRec.receives (if q = p then { u.ports[q] with state := u.ports[q].state.afterReset } else u.ports[q])
        (u.swapCompletions p q) := by
  cases hn : u.ports[p].state.boundSlot? with
  | none =>
    rw [resetState_of_unbound hn, swapCompletions_of_unbound hn, receives_nil]
    by_cases h : q = p
    · subst h
      rw [if_pos rfl, afterReset_of_unbound hn]
    · rw [if_neg h]
  | some n =>
    rw [resetState_of_bound hn, ports_detach, swapCompletions_congr (s := u) rfl rfl]
    by_cases h : q = p
    · subst h
      rw [if_pos rfl, if_pos rfl, afterReset_of_bound hn]
      rfl
    · rw [if_neg h, if_neg h]
      rfl

/-- The hub once port `p` has lost its state and its roles, with its flags not yet cleared. -/
def State.resetRoleless (s : State) (p : PortId) : State := ((s.resetAccesses p).resetState p).endRoles p

theorem resetState_not_attached (u : State) (p : PortId) : (u.resetState p).ports[p].state.isAttached = false := by
  rw [ports_resetState, if_pos rfl]
  exact afterReset_isAttached _

theorem resetAccesses_rolesEnded (s : State) (p : PortId) :
    ((s.resetAccesses p).resetState p).rolesEnded p = s.rolesEnded p := by
  refine rolesEnded_congr (resetState_rights _ p) fun q hq => ?_
  rw [states_resetState, Function.update_of_ne hq, states_resetAccesses]

theorem ports_resetRoleless (s : State) (p q : PortId) :
    (s.resetRoleless p).ports[q] =
      { ((s.resetAccesses p).resetState p).ports[q] with
        flags := ((s.resetAccesses p).resetState p).ports[q].flags |||
          if (s.rolesEnded p).role q = s.rights.role q then 0#6 else 16#6 } := by
  have hrights : ((s.resetAccesses p).resetState p).rights = s.rights := resetState_rights _ p
  rw [State.resetRoleless, ports_endRoles (resetState_not_attached ..), resetAccesses_rolesEnded, hrights]

/-- R114, R115: every other port sees only the swap and the roles. -/
theorem ports_resetRoleless_of_ne (s : State) {p q : PortId} (hq : q ≠ p) :
    (s.resetRoleless p).ports[q] =
      { s.ports[q] with
        completions := s.ports[q].completions ++ s.swapCompletions p q
        flags := s.flagsAfterLoss p q } := by
  rw [ports_resetRoleless, ports_resetState, if_neg hq, swapCompletions_resetAccesses, if_neg hq, ports_resetAccesses, if_neg hq]
  rfl

/-- R112 to R115: the port itself is left with nothing but its issued accesses, its parameters and its channel. -/
theorem clearFlags_resetRoleless (s : State) (p : PortId) :
    (s.resetRoleless p).ports[p].clearFlags =
      { s.ports[p].emptyControl.emptyAccesses with state := s.ports[p].state.afterReset, flags := 0, enables := 0 } := by
  rw [ports_resetRoleless, ports_resetState, if_pos rfl, swapCompletions_resetAccesses, if_pos rfl, receives_nil,
    ports_resetAccesses, if_pos rfl]
  rfl

theorem emptyAccesses_slot (r : PortRec) (k : AccId) :
    r.emptyAccesses.slots[k] =
      match r.slots[k] with
      | some { access := a, state := .issued n _ } => some { access := a, state := .issued n true }
      | _ => none := by
  have hslot : r.emptyAccesses.slots[k] = r.slots[k].bind fun a => match a.state with
      | .issued n _ => some { a with state := .issued n true }
      | .untranslated | .stalled | .answered _ _ => none :=
    Vector.getElem_ofFn k.isLt
  rw [hslot]
  cases r.slots[k] with
  | none => rfl
  | some y =>
    obtain ⟨a, st⟩ := y
    cases st <;> rfl

/-- The state a port reset leaves. -/
def State.portReset (s : State) (p : PortId) : State :=
  ((s.resetRoleless p).modifyPort p (·.clearFlags)).modifyPort p (·.acceptHeld)

theorem exec_portReset_eq (s : State) (p : PortId) : exec (.portReset p) s = .next (s.portReset p) := rfl

theorem ports_portReset_self (s : State) (p : PortId) :
    (s.portReset p).ports[p] = (s.resetRoleless p).ports[p].clearFlags.acceptHeld := by
  unfold State.portReset
  rw [ports_modifyPort_eq, if_pos rfl, ports_modifyPort_eq, if_pos rfl]

theorem ports_portReset_of_ne (s : State) {p q : PortId} (hq : q ≠ p) : (s.portReset p).ports[q] = (s.resetRoleless p).ports[q] := by
  unfold State.portReset
  rw [ports_modifyPort_eq, if_neg hq, ports_modifyPort_eq, if_neg hq]

theorem slots_portReset (s : State) (p : PortId) : (s.portReset p).slots = ((s.resetAccesses p).resetState p).slots :=
  State.endRoles_slots ..

theorem slot_resetState (u : State) (p : PortId) (n : SlotId) :
    u.slots[n].DetachedTo p (u.ports[p].state.boundSlot? = some n) (u.resetState p).slots[n] := by
  cases hn : u.ports[p].state.boundSlot? with
  | none =>
    rw [resetState_of_unbound hn]
    exact detachedTo_of_not_bound nofun _
  | some m =>
    have hslot := slot_detach (u.retireAccess p) p .detached n
    rw [resetState_of_bound hn, ← hn]
    exact hslot

theorem slot_portReset (s : State) (p : PortId) (n : SlotId) :
    MapSlot.DetachedTo { s.slots[n] with condition := s.slots[n].condition.disown p } p
      (s.ports[p].state.boundSlot? = some n) (s.portReset p).slots[n] := by
  have hslot := slot_resetState (s.resetAccesses p) p n
  rw [state_resetAccesses, slot_resetAccesses, ← slots_portReset] at hslot
  exact hslot

theorem disowned_with_boundary (c : PendingCommit) (p : PortId) (b : Boundary) :
    { c.disowned p with boundary := b } =
      { c with boundary := b, owed := if c.issuer.port = p then false else c.owed } := by
  unfold PendingCommit.disowned
  by_cases h : c.issuer.port = p
  · rw [if_pos h, if_pos h]
  · rw [if_neg h, if_neg h]

theorem resetState_frame (u : State) (p : PortId) :
    (u.resetState p).seqCounter = u.seqCounter ∧ (u.resetState p).stampCount = u.stampCount ∧
      (u.resetState p).sent = u.sent ∧ (u.resetState p).delivered = u.delivered ∧ (u.resetState p).pending = u.pending := by
  unfold State.resetState
  split <;> simp

theorem portReset_frame (s : State) (p : PortId) :
    (s.portReset p).seqCounter = s.seqCounter ∧ (s.portReset p).stampCount = s.stampCount ∧
      (s.portReset p).sent = s.sent ∧ (s.portReset p).delivered = s.delivered ∧ (s.portReset p).pending = s.pending := by
  unfold State.portReset State.resetRoleless
  simp only [State.modifyPort_seqCounter, State.modifyPort_stampCount, State.modifyPort_sent, State.modifyPort_delivered,
    State.modifyPort_pending, State.endRoles_seqCounter, State.endRoles_stampCount, State.endRoles_sent,
    State.endRoles_delivered, State.endRoles_pending, resetState_frame]
  simp [State.resetAccesses]

end PortReset

/-- Settles O59: the ports, the slots, and the rest field by field. -/
theorem portResetActs : Obligations.PortResetActs := by
  intro s p
  have hexec := exec_portReset_eq s p
  obtain ⟨hmemsize, hlimit⟩ := configuration_portReset hexec
  obtain ⟨hseq, hstamp, hsent, hdelivered, hpending⟩ := portReset_frame s p
  refine ⟨s.portReset p, hexec, ⟨s.ports[p].emptyControl.emptyAccesses.slots, ?_, emptyAccesses_slot s.ports[p].emptyControl⟩,
    fun q hq => ?_, jobs_portReset hexec, fun n => ?_, faults_portReset hexec, portReset_rights hexec, mem_portReset hexec,
    hseq, hstamp, hmemsize, hlimit, hsent, hdelivered, hpending⟩
  · rw [ports_portReset_self, clearFlags_resetRoleless, afterReset_eq]
    rfl
  · rw [ports_portReset_of_ne s hq, ports_resetRoleless_of_ne s hq]
  · obtain ⟨hstaged, hflight, hbinders, hlast, hothers, hkept⟩ := slot_portReset s p n
    refine ⟨hstaged, hflight, hbinders, fun hn c waiting hc hb hp => ⟨fun hall => ?_, fun hmore => ?_⟩, fun h => ?_⟩
    · exact hlast hn (c.disowned p) waiting (by rw [hc, disown_sealed]) ((disowned_boundary c p).trans hb) hp hall
    · have hdisowned : s.slots[n].condition.disown p = .sealed (c.disowned p) := by rw [hc, disown_sealed]
      obtain ⟨hlive, hcondition⟩ := hothers hn (c.disowned p) waiting hdisowned ((disowned_boundary c p).trans hb) hp hmore
      exact ⟨hlive, hcondition.trans (congrArg Condition.sealed (disowned_with_boundary c p _))⟩
    · obtain ⟨hlive, hcondition⟩ := hkept (h.imp id fun hp => by rwa [waiting_disown])
      refine ⟨hlive, hcondition.trans ?_⟩
      cases s.slots[n].condition <;> rfl

end Sys2Proof.Machine
end
